-- ==== Sys2Proof/Word.lean ====
section
/-! DEFINITION. The plain word types of the engine (00_scope.md R9, R10): every value is unsigned. -/

namespace Sys2Proof

/-- `byte`: an unsigned 8-bit value (R10). -/
abbrev Byte := BitVec 8

/-- `u16` (R10). -/
abbrev Half := BitVec 16

/-- `u32`, a bus address (`ADDR_WIDTH` = 32, 20_memory.md R50) and a bus word (`BUS_WIDTH` = 32, R57). -/
abbrev Word := BitVec 32

end Sys2Proof
end

