-- ==== Sys2Proof/Config.lean ====
section
/-! DEFINITION. What an implementation fixes (00_scope.md R6) and the values the spec leaves free. Every parameter of
R6 is a field of `Params`, so a statement over all states is a statement over all parameter sets. -/

namespace Sys2Proof

/-- The line registers the engine names (20_memory.md R51). -/
inductive LineReg
  | data | lsr | lcr | dll | dlm | ier | fcr | mcr
  deriving DecidableEq, Repr

/-- `LINE_BINDING`: how the divisor registers are reached (90_conflicts.md C1). -/
inductive LineBinding
  | banked16550 | named
  deriving DecidableEq, Repr

/-- The three fixed commands, in the order of 43_shutdown_sequencer.md R154; the value of `cmd_idx` (10_state.md R23). -/
inductive Command
  | watchdogKill | shutdownWait | powerOff
  deriving DecidableEq, Repr

/-- `cmd_idx` as a number (10_state.md R23). -/
def Command.index : Command → Nat
  | .watchdogKill => 0
  | .shutdownWait => 1
  | .powerOff => 2

/-- The command after this one in the fixed order, if there is one (R154). -/
def Command.next? : Command → Option Command
  | .watchdogKill => some .shutdownWait
  | .shutdownWait => some .powerOff
  | .powerOff => none

/-- One value for each fixed command: `PAYLOAD[0..2]`, `cmd_result[0..2]`. -/
structure PerCommand (α : Type) where
  watchdogKill : α
  shutdownWait : α
  powerOff : α
  deriving DecidableEq, Repr

/-- Indexing by `cmd_idx`. -/
def PerCommand.get {α : Type} (v : PerCommand α) : Command → α
  | .watchdogKill => v.watchdogKill
  | .shutdownWait => v.shutdownWait
  | .powerOff => v.powerOff

/-- Writing one entry. -/
def PerCommand.set {α : Type} (v : PerCommand α) (c : Command) (x : α) : PerCommand α :=
  match c with
  | .watchdogKill => { v with watchdogKill := x }
  | .shutdownWait => { v with shutdownWait := x }
  | .powerOff => { v with powerOff := x }

/-- The construction parameters of 00_scope.md R6, but `TICK_RATE` and `BASE`, which are inputs of attach. -/
structure Params where
  /-- `RETRY_LIMIT`: attempts in total (90_conflicts.md C3). -/
  retryLimit : Nat
  responseCapacity : Nat
  readPollLimit : Nat
  pollInterval : Nat
  flushSettle : Nat
  postCmdDelay : Nat
  /-- `TIME_UNIT` in milliseconds. -/
  timeUnit : Nat
  targetBaud : Nat
  flushByte : Byte
  /-- `ADDR_WIDTH`: bits of a bus address (20_memory.md R50, R52; log entry 2). -/
  addrWidth : Nat
  regStride : Nat
  busWidth : Nat
  lineBinding : LineBinding
  idxData : Nat
  idxIer : Nat
  idxFcr : Nat
  idxLcr : Nat
  idxMcr : Nat
  idxLsr : Nat
  /-- `REG_INDEX_DLL`, used under `NAMED` only (20_memory.md R52). -/
  idxDll : Nat
  /-- `REG_INDEX_DLM`, used under `NAMED` only (20_memory.md R52). -/
  idxDlm : Nat
  lsrDrBit : Nat
  lsrThreBit : Nat
  lcrFormat : Byte
  lcrDlabEntry : Byte
  ierInit : Byte
  fcrInit : Byte
  mcrInit : Byte
  payload : PerCommand (List Byte)
  maxPayloadLen : Nat
  /-- The host's own code for an orderly shutdown (30_encoding.md R78). -/
  reasonCodeShutdown : Nat
  /-- The host's own code for a halt (30_encoding.md R78). -/
  reasonCodeHalt : Nat
  deriving DecidableEq, Repr

/-- The bus word a `LineRead` returns when the scripted answers are used up: "a byte chosen by the line device", drawn
under no law (20_memory.md R55; log entry 7). A free value: the argument is the number of reads made before. -/
opaque Config.lineAnswer : Nat → BitVec 32

/-- The opaque argument of a host call whose argument the spec does not give (30_encoding.md R78; log entry 8). -/
opaque Config.hostArgument : Nat → BitVec 32

/-- `REASON_CODE_SHUTDOWN`, OPEN (92_eei_decisions.md D13; log entry 3). -/
opaque Config.reasonCodeShutdown : Nat

/-- `REASON_CODE_HALT`, OPEN (92_eei_decisions.md D13; log entry 3). -/
opaque Config.reasonCodeHalt : Nat

/-- `REG_INDEX_DLL`, OPEN (92_eei_decisions.md D4; log entry 3). -/
opaque Config.regIndexDll : Nat

/-- `REG_INDEX_DLM`, OPEN (92_eei_decisions.md D4; log entry 3). -/
opaque Config.regIndexDlm : Nat

/-- The divisor for a tick rate and a `TARGET_BAUD` whose quotient R153 does not give in 16 bits: a free value (43_shutdown_sequencer.md
R153; DESIGN CHOICE, log entry 13). -/
opaque Config.unstatedDivisor : Word → Nat → Half

/-- The default payloads of 30_encoding.md R75, from general knowledge (93_implementation_defined.md G13): a claim that
uses these bytes takes them as a premise (log entry 9). -/
def Config.defaultPayload : PerCommand (List Byte) where
  watchdogKill := [0x01, 0x35, 0x00]
  shutdownWait := [0x00, 0x0C]
  powerOff := [0x00, 0x06]

/-- The parameter values of the reference design (R6), with the 16550 values from general knowledge (93 part 2; log
entry 9) and the four OPEN parameters free (log entry 3). -/
def Params.reference : Params where
  retryLimit := 3
  responseCapacity := 40
  readPollLimit := 10
  pollInterval := 1
  flushSettle := 100
  postCmdDelay := 10
  timeUnit := 1
  targetBaud := 38400
  flushByte := 0xFF
  addrWidth := 32
  regStride := 4
  busWidth := 32
  lineBinding := .banked16550
  idxData := 0
  idxIer := 1
  idxFcr := 2
  idxLcr := 3
  idxMcr := 4
  idxLsr := 5
  idxDll := Config.regIndexDll
  idxDlm := Config.regIndexDlm
  lsrDrBit := 0
  lsrThreBit := 5
  lcrFormat := 0x1B
  lcrDlabEntry := 0x83
  ierInit := 0x00
  fcrInit := 0x07
  mcrInit := 0x00
  payload := Config.defaultPayload
  maxPayloadLen := 39
  reasonCodeShutdown := Config.reasonCodeShutdown
  reasonCodeHalt := Config.reasonCodeHalt

end Sys2Proof
end

