-- ==== Sys2Proof/Machine/Operands.lean ====
section
/-! DEFINITION. The values the engine assembles from others (00_scope.md R11; 30_encoding.md R76): sums, checksums, the
divisor, byte splits, the acknowledgement, register indices and the configuration sequence. -/

namespace Sys2Proof.Machine

/-- `sum8(s)`: the exact sum of the bytes, then its low 8 bits (00_scope.md R11). -/
def sum8 (s : List Byte) : Byte := BitVec.ofNat 8 ((s.map BitVec.toNat).sum)

/-- `neg8(x) = (256 - x) mod 256` (00_scope.md R11). -/
def neg8 (x : Byte) : Byte := BitVec.ofNat 8 (256 - x.toNat)

/-- The frame checksum, `neg8(sum8(s))` (42_frame_protocol.md R120). -/
def checksumOf (s : List Byte) : Byte := neg8 (sum8 s)

/-- The Command Frame of payload `p`: the payload, then its checksum (30_encoding.md R71). -/
def frameOf (p : List Byte) : List Byte := p ++ [checksumOf p]

/-- The Expected Acknowledgement for `payload[1] = a` (30_encoding.md R73). -/
def ackOf (a : Byte) : List Byte := [0x01, a, 0x00]

/-- An accepted response `01 a 00 c` and its tail; `c` is the only byte that makes the first four sum to 0 (30_encoding.md R72). -/
def responseOf (a : Byte) (tail : List Byte) : List Byte := ackOf a ++ checksumOf (ackOf a) :: tail

/-- `(t + 8*TARGET_BAUD) div (16*TARGET_BAUD)` in exact naturals (43_shutdown_sequencer.md R153). -/
def exactDivisor (p : Params) (t : Word) : Nat := (t.toNat + 8 * p.targetBaud) / (16 * p.targetBaud)

/-- The divisor register's value: the exact quotient, which fits 16 bits for every tick rate at the reference baud
(10_state.md R31). Where it does not, or `TARGET_BAUD` is 0, the spec states no value: a free one (log entry 13). -/
def divisorOf (p : Params) (t : Word) : Half :=
  if 1 ≤ p.targetBaud ∧ exactDivisor p t < 2 ^ 16 then BitVec.ofNat 16 (exactDivisor p t)
  else Config.unstatedDivisor t p.targetBaud

/-- `v[7:0]` of a 16-bit value: the `DLL` value (30_encoding.md R76). -/
def lowByte (v : Half) : Byte := v.setWidth 8

/-- `v[15:8]` of a 16-bit value: the `DLM` value (30_encoding.md R76). -/
def highByte (v : Half) : Byte := (v >>> 8).setWidth 8

/-- A `u16` from two bytes, low byte first (30_encoding.md R82). -/
def halfOfBytes (b0 b1 : Byte) : Half := b1 ++ b0

/-- A `u32` from four bytes, low byte first (30_encoding.md R82). -/
def wordOfBytes (b0 b1 b2 b3 : Byte) : Word := b3 ++ b2 ++ b1 ++ b0

/-- The bytes of a `u16`, low byte first (30_encoding.md R82). -/
def halfBytes (v : Half) : List Byte := [lowByte v, highByte v]

/-- The bytes of a `u32`, low byte first (30_encoding.md R82). -/
def wordBytes (v : Word) : List Byte :=
  [v.setWidth 8, (v >>> 8).setWidth 8, (v >>> 16).setWidth 8, (v >>> 24).setWidth 8]

/-- `REG_INDEX(r)` for the configured binding: under `BANKED_16550` the divisor registers share the indices of `DATA` and
`IER` (20_memory.md R52). -/
def regIndex (p : Params) : LineReg → Nat
  | .data => p.idxData
  | .ier => p.idxIer
  | .fcr => p.idxFcr
  | .lcr => p.idxLcr
  | .mcr => p.idxMcr
  | .lsr => p.idxLsr
  | .dll => match p.lineBinding with
    | .banked16550 => p.idxData
    | .named => p.idxDll
  | .dlm => match p.lineBinding with
    | .banked16550 => p.idxIer
    | .named => p.idxDlm

/-- `addr(r) = base + REG_STRIDE * REG_INDEX(r)`, computed in `ADDR_WIDTH` bits (20_memory.md R52). An address is a natural
number, because its width is a parameter (log entry 2). -/
def regAddr (p : Params) (base : Nat) (r : LineReg) : Nat :=
  (base + p.regStride * regIndex p r) % 2 ^ p.addrWidth

/-- The byte in bits 7:0 of a bus word (20_memory.md R55). -/
def busByte (w : Word) : Byte := w.setWidth 8

/-- A byte zero-extended to a bus word (20_memory.md R56). -/
def busWord (v : Byte) : Word := v.setWidth 32

/-- `CFG_SEQ`: the configuration writes in order, for a divisor that may be `⊥` and a format (41_byte_transport.md R100). -/
def cfgSeq (p : Params) (divisor : Option Half) (format : Byte) : List (LineReg × Option Byte) :=
  match p.lineBinding with
  | .banked16550 =>
    [(.lcr, some p.lcrDlabEntry), (.dll, divisor.map lowByte), (.dlm, divisor.map highByte), (.lcr, some format),
      (.ier, some p.ierInit), (.fcr, some p.fcrInit), (.mcr, some p.mcrInit)]
  | .named =>
    [(.lcr, some format), (.dll, divisor.map lowByte), (.dlm, divisor.map highByte),
      (.ier, some p.ierInit), (.fcr, some p.fcrInit), (.mcr, some p.mcrInit)]

/-- `CFG_LEN`: 7 under `BANKED_16550`, 6 under `NAMED` (41_byte_transport.md R100). -/
def cfgLen (p : Params) : Nat :=
  match p.lineBinding with
  | .banked16550 => 7
  | .named => 6

/-- An `LSR` value of the line agent for a delivered response: THRE set, and DR as given (92_eei_decisions.md D40). -/
def lsrValue (p : Params) (dr : Bool) : Byte :=
  BitVec.ofNat 8 (2 ^ p.lsrThreBit) ||| (if dr then BitVec.ofNat 8 (2 ^ p.lsrDrBit) else 0)

/-- The answers with which the line agent delivers the bytes `bs` to one `READ_BYTES`: each found at the first poll, and,
where the buffer is not filled, the polls of the timeout that ends the read (41_byte_transport.md R101, R104). -/
def deliveryOf (p : Params) (bs : List Byte) : List Word :=
  let got := bs.take p.responseCapacity
  got.flatMap (fun b => [busWord (lsrValue p true), busWord b]) ++
    (if got.length < p.responseCapacity then List.replicate p.readPollLimit (busWord (lsrValue p false)) else [])

/-- The parameter constraints of 00_scope.md R7, in its order, and no other. DESIGN CHOICE: R7 bounds the register values to
0..255 only, so `IER_INIT`, `FCR_INIT` and `MCR_INIT` with reserved bits set are accepted and written as given (log entry 32;
unsafe), though 30_encoding.md R79 says that the engine writes reserved bits 0. DESIGN CHOICE: nor does R7 ask for DLAB (bit 7) set in
`LCR_DLAB_ENTRY` and clear in `LCR_FORMAT`; any values are accepted and written, though 70_reset_and_hazards.md R212 has the latch
open in between and closed after (log entry 35; unsafe). DESIGN CHOICE: R7 sets no bound on `REG_STRIDE`, so a stride that is not a multiple of 4 is accepted and its accesses are made as they fall (log entry 30; unsafe);
20_memory.md R58 speaks of strides that are multiples of 4. -/
def paramsValid (p : Params) (base : Nat) : Bool :=
  decide (1 ≤ p.retryLimit) && decide (p.retryLimit ≤ 15) &&
  decide (4 ≤ p.responseCapacity) && decide (p.responseCapacity ≤ 255) &&
  decide (1 ≤ p.readPollLimit) &&
  decide (base % 4 = 0) && decide (base + p.regStride * 7 + 3 ≤ 2 ^ p.addrWidth - 1) &&
  decide (p.lsrDrBit ≠ p.lsrThreBit) && decide (p.lsrDrBit ≤ 7) && decide (p.lsrThreBit ≤ 7) &&
  decide (2 ≤ p.payload.watchdogKill.length) && decide (p.payload.watchdogKill.length ≤ p.maxPayloadLen) &&
  decide (2 ≤ p.payload.shutdownWait.length) && decide (p.payload.shutdownWait.length ≤ p.maxPayloadLen) &&
  decide (2 ≤ p.payload.powerOff.length) && decide (p.payload.powerOff.length ≤ p.maxPayloadLen)

end Sys2Proof.Machine
end

