-- ==== Sys2Proof/Syntax.lean ====
section
/-! DEFINITION. The syntax: one constructor for each row of spec/opcode_table.json, and the encoded items a program is
made of. -/

namespace Sys2Proof

/-- The reason of a trigger call (30_encoding.md R78). -/
inductive Reason
  | shutdown
  | halt
  /-- Any other code; in the harness encoding a byte other than 0x01 and 0x02 (R82). -/
  | other (code : Nat)
  deriving DecidableEq, Repr

/-- One constructor for each row of the opcode table. The first eighteen are the operations of 30_encoding.md R80; the
others are the wire formats and the reason codes, each with the meaning log entries 10 to 12 give it. -/
inductive Instr
  | configure (divisor : Half) (format : Byte)
  | readByte
  | writeByte (b : Byte)
  | readBytes (max : Byte)
  | writeBytes (bs : List Byte)
  | checksum (bs : List Byte)
  | buildFrame (p : List Byte)
  | expectedAck (p : List Byte)
  | checkLength
  | verifyChecksum
  | compareAck
  | resync
  | attempt
  | sendCommand (p : List Byte)
  | trigger (reason : Reason) (arg : Word)
  | computeDivisor (t : Word)
  | reconfigure
  | runSequence
  | frameWatchdogKill
  | frameShutdownWait
  | framePowerOff
  /-- A Command Frame with payload `p`; its checksum byte follows from `p` (R71). -/
  | commandFrame (p : List Byte)
  /-- A response `01 a 00 c tail` with `c` the byte that makes the first four sum to 0 (R72). -/
  | ackResponse (a : Byte) (tail : List Byte)
  /-- The reference bytes `01 a 00` (R73): the table's second row named EXPECTED_ACK. -/
  | expectedAckRef (a : Byte)
  | resyncPreamble
  | reasonShutdown
  | reasonHalt
  deriving DecidableEq, Repr

/-- The "format" column of spec/opcode_table.json: which of the encodings of 30_encoding.md R70 an item is in. -/
inductive WordFormat
  | invocation | commandFrame | response | reference | preamble | reason
  deriving DecidableEq, Repr

/-- One encoded item of a harness program: bytes in the order they stand or travel, and the format they are in. -/
structure ProgItem where
  format : WordFormat
  bytes : List Byte
  deriving DecidableEq, Repr

end Sys2Proof
end

