-- ==== Sys2Proof/WellFormed.lean ====
section
/-! DEFINITION. Which terms of `Instr` an encoding stands for: operand ranges the syntax alone does not fix. Ranges that
an operation itself answers with a fault or a refusal (30_encoding.md R83) are not checked here. -/

namespace Sys2Proof

/-- A byte list is written after a count byte (30_encoding.md R82). -/
def countable (bs : List Byte) : Bool := decide (bs.length ≤ 255)

/-- A reason is one harness byte, and `OTHER` is no spelling of the two accepted codes (30_encoding.md R82). -/
def Reason.wf : Reason → Bool
  | .shutdown => true
  | .halt => true
  | .other code => decide (code < 256) && decide (code ≠ 1) && decide (code ≠ 2)

/-- A frame that one of the three fixed commands has is not written as a general Command Frame (30_encoding.md R75). -/
def notFixedPayload (par : Params) (p : List Byte) : Bool :=
  decide (p ≠ par.payload.watchdogKill) && decide (p ≠ par.payload.shutdownWait) && decide (p ≠ par.payload.powerOff)

/-- Well-formedness of an instruction for an engine with these parameters. A response holds at most 255 bytes, the largest
`RESPONSE_CAPACITY` of 00_scope.md R7. Where two `PAYLOAD` parameters are equal, their one frame is written as the earlier command's
(log entry 33). -/
def Instr.wf (par : Params) : Instr → Bool
  | .configure _ _ => true
  | .readByte => true
  | .writeByte _ => true
  | .readBytes _ => true
  | .writeBytes bs => countable bs
  | .checksum bs => countable bs
  | .buildFrame p => countable p
  | .expectedAck p => countable p
  | .checkLength => true
  | .verifyChecksum => true
  | .compareAck => true
  | .resync => true
  | .attempt => true
  | .sendCommand p => countable p
  | .trigger r _ => r.wf
  | .computeDivisor _ => true
  | .reconfigure => true
  | .runSequence => true
  | .frameWatchdogKill => true
  | .frameShutdownWait => decide (par.payload.shutdownWait ≠ par.payload.watchdogKill)
  | .framePowerOff =>
    decide (par.payload.powerOff ≠ par.payload.watchdogKill) && decide (par.payload.powerOff ≠ par.payload.shutdownWait)
  | .commandFrame p => notFixedPayload par p
  | .ackResponse _ tail => decide (tail.length ≤ 251)
  | .expectedAckRef _ => true
  | .resyncPreamble => decide (1 ≤ par.responseCapacity)
  | .reasonShutdown => true
  | .reasonHalt => true

end Sys2Proof
end

