-- ==== Sys2Proof/Decode.lean ====
section
/-! DEFINITION. The decoder of encoded items, total on any bytes and rejecting by name, and the encoder
(30_encoding.md R71 to R75, R80 to R83). -/

namespace Sys2Proof

open Sys2Proof.Machine (sum8 checksumOf frameOf ackOf responseOf halfOfBytes wordOfBytes halfBytes wordBytes)

/-- Why an item is no instruction; each is a refusal before any step (00_scope.md R14; 30_encoding.md R83). -/
inductive DecodeError
  /-- The item has no bytes. -/
  | empty
  /-- The label is not in the table of 30_encoding.md R80. -/
  | unassignedLabel (label : Byte)
  /-- The operands the label names do not all follow, or a count byte is larger than the bytes that follow (R82, R83). -/
  | truncated (label : Byte)
  /-- Not a payload with its checksum (R71). -/
  | notAFrame
  /-- Not `01 a 00 c …` with a zero sum over the first four bytes (R72). -/
  | notAResponse
  /-- Not `01 a 00` (R73). -/
  | notAReference
  /-- Not `RESPONSE_CAPACITY` copies of `FLUSH_BYTE` (R74). -/
  | notAPreamble
  /-- A reason byte that is no row of the table (R82). -/
  | unknownReason
  deriving DecidableEq, Repr

/-- The reason a harness reason byte stands for (30_encoding.md R82). -/
def reasonOfByte (b : Byte) : Reason :=
  if b = 0x01 then .shutdown else if b = 0x02 then .halt else .other b.toNat

/-- The harness byte of a reason (30_encoding.md R82). -/
def byteOfReason : Reason → Byte
  | .shutdown => 0x01
  | .halt => 0x02
  | .other code => BitVec.ofNat 8 code

/-- A byte list operand: a count byte, then that many bytes (30_encoding.md R82). Answers the list and the bytes after it. -/
def takeList : List Byte → Option (List Byte × List Byte)
  | [] => none
  | n :: bs => if n.toNat ≤ bs.length then some (bs.take n.toNat, bs.drop n.toNat) else none

/-- An operation whose one operand is a byte list. -/
def decodeList (label : Byte) (mk : List Byte → Instr) (bs : List Byte) : Except DecodeError (Instr × List Byte) :=
  match takeList bs with
  | some (l, rest) => .ok (mk l, rest)
  | none => .error (.truncated label)

/-- The operands of `CONFIGURE`. -/
def decodeConfigure : List Byte → Except DecodeError (Instr × List Byte)
  | b0 :: b1 :: f :: rest => .ok (.configure (halfOfBytes b0 b1) f, rest)
  | _ => .error (.truncated 0x01)

/-- The operand of `WRITE_BYTE`. -/
def decodeWriteByte : List Byte → Except DecodeError (Instr × List Byte)
  | b :: rest => .ok (.writeByte b, rest)
  | _ => .error (.truncated 0x03)

/-- The operand of `READ_BYTES`. -/
def decodeReadBytes : List Byte → Except DecodeError (Instr × List Byte)
  | m :: rest => .ok (.readBytes m, rest)
  | _ => .error (.truncated 0x04)

/-- The operands of `TRIGGER`. -/
def decodeTrigger : List Byte → Except DecodeError (Instr × List Byte)
  | r :: b0 :: b1 :: b2 :: b3 :: rest => .ok (.trigger (reasonOfByte r) (wordOfBytes b0 b1 b2 b3), rest)
  | _ => .error (.truncated 0x20)

/-- The operand of `COMPUTE_DIVISOR`. -/
def decodeComputeDivisor : List Byte → Except DecodeError (Instr × List Byte)
  | b0 :: b1 :: b2 :: b3 :: rest => .ok (.computeDivisor (wordOfBytes b0 b1 b2 b3), rest)
  | _ => .error (.truncated 0x21)

/-- The operands after a label byte (30_encoding.md R80, R82). -/
def decodeOperands (label : Byte) (bs : List Byte) : Except DecodeError (Instr × List Byte) :=
  match label.toNat with
  | 0x01 => decodeConfigure bs
  | 0x02 => .ok (.readByte, bs)
  | 0x03 => decodeWriteByte bs
  | 0x04 => decodeReadBytes bs
  | 0x05 => decodeList label .writeBytes bs
  | 0x10 => decodeList label .checksum bs
  | 0x11 => decodeList label .buildFrame bs
  | 0x12 => decodeList label .expectedAck bs
  | 0x13 => .ok (.checkLength, bs)
  | 0x14 => .ok (.verifyChecksum, bs)
  | 0x15 => .ok (.compareAck, bs)
  | 0x16 => .ok (.resync, bs)
  | 0x17 => .ok (.attempt, bs)
  | 0x18 => decodeList label .sendCommand bs
  | 0x20 => decodeTrigger bs
  | 0x21 => decodeComputeDivisor bs
  | 0x22 => .ok (.reconfigure, bs)
  | 0x23 => .ok (.runSequence, bs)
  | _ => .error (.unassignedLabel label)

/-- One invocation from the front of a byte string, with the bytes after it (30_encoding.md R82). -/
def decodeInvocation : List Byte → Except DecodeError (Instr × List Byte)
  | [] => .error .empty
  | label :: bs => decodeOperands label bs

/-- A wire command frame: the frame of one of the three `PAYLOAD` parameters, the first that fits, or any payload with its
checksum (30_encoding.md R71, R75; log entry 33). -/
def decodeFrame (par : Params) (bs : List Byte) : Except DecodeError Instr :=
  if bs = [] then .error .empty
  else if bs = frameOf par.payload.watchdogKill then .ok .frameWatchdogKill
  else if bs = frameOf par.payload.shutdownWait then .ok .frameShutdownWait
  else if bs = frameOf par.payload.powerOff then .ok .framePowerOff
  else if sum8 bs = 0 then .ok (.commandFrame bs.dropLast)
  else .error .notAFrame

/-- A wire response (30_encoding.md R72). -/
def decodeResponse : List Byte → Except DecodeError Instr
  | [] => .error .empty
  | b0 :: a :: b2 :: c :: tail =>
    if b0 = 0x01 ∧ b2 = 0x00 ∧ sum8 [b0, a, b2, c] = 0 then .ok (.ackResponse a tail) else .error .notAResponse
  | _ => .error .notAResponse

/-- The reference bytes of the Expected Acknowledgement (30_encoding.md R73). -/
def decodeReference : List Byte → Except DecodeError Instr
  | [] => .error .empty
  | [b0, a, b2] => if b0 = 0x01 ∧ b2 = 0x00 then .ok (.expectedAckRef a) else .error .notAReference
  | _ => .error .notAReference

/-- The preamble: `RESPONSE_CAPACITY` copies of `FLUSH_BYTE`, 40 bytes of 0xFF in the reference design (30_encoding.md R74). -/
def preambleOf (par : Params) : List Byte := List.replicate par.responseCapacity par.flushByte

/-- The resynchronisation preamble (30_encoding.md R74). -/
def decodePreamble (par : Params) (bs : List Byte) : Except DecodeError Instr :=
  if bs = [] then .error .empty else if bs = preambleOf par then .ok .resyncPreamble else .error .notAPreamble

/-- A reason row: the byte alone (30_encoding.md R82). -/
def decodeReason : List Byte → Except DecodeError Instr
  | [] => .error .empty
  | [b] => if b = 0x01 then .ok .reasonShutdown else if b = 0x02 then .ok .reasonHalt else .error .unknownReason
  | _ => .error .unknownReason

/-- A decoded item that takes all its bytes. -/
def whole (r : Except DecodeError Instr) : Except DecodeError (Instr × List Byte) :=
  match r with
  | .ok i => .ok (i, [])
  | .error e => .error e

/-- The instruction at the front of an item, for an engine with these parameters, and the bytes of the item after it (only an
invocation leaves any: log entry 36). -/
def decodeItem (par : Params) (item : ProgItem) : Except DecodeError (Instr × List Byte) :=
  match item.format with
  | .invocation => decodeInvocation item.bytes
  | .commandFrame => whole (decodeFrame par item.bytes)
  | .response => whole (decodeResponse item.bytes)
  | .reference => whole (decodeReference item.bytes)
  | .preamble => whole (decodePreamble par item.bytes)
  | .reason => whole (decodeReason item.bytes)

/-! ## The encoder -/

/-- A byte list with its count byte (30_encoding.md R82). -/
def listBytes (bs : List Byte) : List Byte := BitVec.ofNat 8 bs.length :: bs

/-- An invocation item. -/
def invocation (label : Byte) (operands : List Byte) : ProgItem := ⟨.invocation, label :: operands⟩

/-- The item of an instruction for an engine with these parameters (30_encoding.md R71 to R75, R80, R82). -/
def encode (par : Params) : Instr → ProgItem
  | .configure d f => invocation 0x01 (halfBytes d ++ [f])
  | .readByte => invocation 0x02 []
  | .writeByte b => invocation 0x03 [b]
  | .readBytes m => invocation 0x04 [m]
  | .writeBytes bs => invocation 0x05 (listBytes bs)
  | .checksum bs => invocation 0x10 (listBytes bs)
  | .buildFrame p => invocation 0x11 (listBytes p)
  | .expectedAck p => invocation 0x12 (listBytes p)
  | .checkLength => invocation 0x13 []
  | .verifyChecksum => invocation 0x14 []
  | .compareAck => invocation 0x15 []
  | .resync => invocation 0x16 []
  | .attempt => invocation 0x17 []
  | .sendCommand p => invocation 0x18 (listBytes p)
  | .trigger r arg => invocation 0x20 (byteOfReason r :: wordBytes arg)
  | .computeDivisor t => invocation 0x21 (wordBytes t)
  | .reconfigure => invocation 0x22 []
  | .runSequence => invocation 0x23 []
  | .frameWatchdogKill => ⟨.commandFrame, frameOf par.payload.watchdogKill⟩
  | .frameShutdownWait => ⟨.commandFrame, frameOf par.payload.shutdownWait⟩
  | .framePowerOff => ⟨.commandFrame, frameOf par.payload.powerOff⟩
  | .commandFrame p => ⟨.commandFrame, frameOf p⟩
  | .ackResponse a tail => ⟨.response, responseOf a tail⟩
  | .expectedAckRef a => ⟨.reference, ackOf a⟩
  | .resyncPreamble => ⟨.preamble, preambleOf par⟩
  | .reasonShutdown => ⟨.reason, [0x01]⟩
  | .reasonHalt => ⟨.reason, [0x02]⟩

/-! ## Words numbered as the opcode table numbers them (log entry 14) -/

/-- The `n` bytes of `w`, least significant first. -/
def leBytes : Nat → Nat → List Byte
  | 0, _ => []
  | n + 1, w => BitVec.ofNat 8 w :: leBytes n (w / 256)

/-- Whether the bytes are one of the three fixed commands' frames (30_encoding.md R75). -/
def isFixedFrame (par : Params) (bs : List Byte) : Bool :=
  decide (bs = frameOf par.payload.watchdogKill) || decide (bs = frameOf par.payload.shutdownWait) ||
    decide (bs = frameOf par.payload.powerOff)

/-- The wire format whose row these bytes match, the row with the most fixed bits first; none when they match none. -/
def wireFormatOf (par : Params) (bs : List Byte) : Option WordFormat :=
  if bs = preambleOf par then some .preamble
  else if isFixedFrame par bs then some .commandFrame
  else match bs with
    | [b0, _, b2] => if b0 = 0x01 ∧ b2 = 0x00 then some .reference else if sum8 bs = 0 then some .commandFrame else none
    | b0 :: a :: b2 :: c :: _ =>
      if b0 = 0x01 ∧ b2 = 0x00 ∧ sum8 [b0, a, b2, c] = 0 then some .response
      else if sum8 bs = 0 then some .commandFrame else none
    | _ => none

/-- The longest invocation: a label, a count byte and 255 bytes. -/
def longestInvocation : Nat := 257

/-- The item of a table word. A wire row's bits are its bytes written from the left, the byte sent first most significant;
an invocation's are its bytes from the right, the label least significant, with zero bytes after the word's own. -/
def itemOfWord (par : Params) (nbits w : Nat) : ProgItem :=
  let le := leBytes ((nbits + 7) / 8) w
  match wireFormatOf par le.reverse with
  | some f => ⟨f, le.reverse⟩
  | none => ⟨.invocation, le ++ List.replicate (longestInvocation - le.length) 0⟩

/-- The instruction the decoder reads from a table word: the table writes its rows with the reference parameters (30_encoding.md
R75: defaults from general knowledge; log entry 9). -/
def decodeTableWord (nbits w : Nat) : Option Instr :=
  match decodeItem Params.reference (itemOfWord Params.reference nbits w) with
  | .ok (i, _) => some i
  | .error _ => none

end Sys2Proof
end

