-- ==== Sys2Proof/Machine/State.lean ====
section
/-! DEFINITION. The state: the engine's registers (10_state.md R20), the construction parameters (00_scope.md R6), and
what the harness, the host and the line device hold towards it. All of it plain data. -/

namespace Sys2Proof.Machine

/-- The micro-states, in the order of their codes 0 to 15 (10_state.md R21). -/
inductive MicroState
  | idle | cfg | txPoll | txWrite | rxPoll | rxSleep | rxData | diagShort
  | settleFlush | diagCsum | diagNak | postOk | diagExh | exhSleep | returning | done
  deriving DecidableEq, Repr

/-- `txb`: what the transmitter sends (10_state.md R29). -/
inductive TxSource
  | frame | flush
  deriving DecidableEq, Repr

/-- `rxp`: why the receiver reads (10_state.md R30). -/
inductive RxPurpose
  | resp | drain
  deriving DecidableEq, Repr

/-- The outcome of a command (10_state.md R35). -/
inductive CmdResult
  | none | ok | fail
  deriving DecidableEq, Repr

/-- The engine's fault kinds (60_exceptions.md R187). -/
inductive FaultKind
  | reentrantTrigger | badPayload | unwritten
  deriving DecidableEq, Repr

/-- The diagnostic codes (60_exceptions.md R186). -/
inductive DiagCode
  | rxShort | csumErr | nak | exhausted
  deriving DecidableEq, Repr

/-- The result of a trigger call (30_encoding.md R78). -/
inductive CallResult
  | notHandled | handled
  deriving DecidableEq, Repr

/-- What `ATTEMPT` returns (42_frame_protocol.md R127). -/
inductive AttemptOutcome
  | acked | short | badCsum | nak
  deriving DecidableEq, Repr

/-- The events of a trace (00_scope.md R12, R15). -/
inductive Event
  | rd (r : LineReg) (v : Byte)
  | wr (r : LineReg) (v : Byte)
  | sleep (units : Nat)
  | diag (code : DiagCode) (data : List Byte)
  | ret (res : CallResult)
  | fault (kind : FaultKind)
  | trig (reason : Reason) (arg : Word)
  deriving DecidableEq, Repr

/-- One bus access: its direction, address, width in bits and bus word (20_memory.md R52, R55 to R57). -/
structure BusAccess where
  isWrite : Bool
  addr : Nat
  width : Nat
  word : Word
  deriving DecidableEq, Repr

/-- The harness register `ret` (30_encoding.md R81): the last invocation's return value. -/
inductive RetVal
  /-- The invocation returns nothing, or has not returned. -/
  | noValue
  /-- `READ_BYTE` (41_byte_transport.md R101): `None` is a timeout. -/
  | received (b : Option Byte)
  /-- `READ_BYTES` (41_byte_transport.md R104): the buffer, `⊥` bytes as `none`, and the count. -/
  | response (buf : List (Option Byte)) (count : Nat)
  /-- `CHECKSUM`. -/
  | byte (b : Byte)
  /-- `CHECK_LENGTH`: is the response short. -/
  | length (isShort : Bool)
  /-- `VERIFY_CHECKSUM`, `COMPARE_ACK`. -/
  | test (b : Bool)
  /-- `ATTEMPT`. -/
  | attempt (o : AttemptOutcome)
  /-- `SEND_COMMAND`. -/
  | command (r : CmdResult)
  /-- `TRIGGER`. -/
  | call (r : CallResult)
  /-- `COMPUTE_DIVISOR`. -/
  | divisor (d : Half)
  deriving DecidableEq, Repr

/-- Whose pseudocode the micro-states run: the step table of the trigger path (43_shutdown_sequencer.md R170), or that of
the operation a harness invocation started, which ends in `IDLE` (30_encoding.md R81, R85; log entry 6). -/
inductive Ctx
  | engine
  | configure (divisor : Half) (format : Byte)
  | reconfigure
  | readByte
  | readBytes (max : Nat)
  /-- A delivered response is read and judged (log entry 11). -/
  | response
  | writeByte (b : Byte)
  | writeBytes (bs : List Byte)
  /-- What `txb` names is sent, and nothing more (log entry 10). -/
  | transmit
  | resync
  | attempt
  | sendCommand
  | runSequence
  /-- A call that never returns, because the engine is faulted (10_state.md R33; 93_implementation_defined.md I12). -/
  | stuck
  deriving DecidableEq, Repr

/-- A trigger call on the host's port, in the host's own numbering (30_encoding.md R78). DESIGN CHOICE: the argument has 32 bits,
the width of the harness encoding; the spec gives the host's own argument no width (91_not_in_source.md N12; log entry 31). -/
structure HostCall where
  code : Nat
  arg : Word
  deriving DecidableEq, Repr

/-- The inputs of an attach (70_reset_and_hazards.md R200). -/
structure AttachInput where
  params : Params
  base : Nat
  tickRate : Word
  deriving DecidableEq, Repr

/-- The engine's registers, exactly those of 10_state.md R20. A `none` is the spec's own `⊥`. -/
structure Engine where
  st : MicroState
  cfgJ : Nat
  cmdIdx : Command
  attempt : Nat
  frame : List (Option Byte)
  frameLen : Nat
  ack : List (Option Byte)
  rbuf : List (Option Byte)
  rcount : Nat
  k : Nat
  txb : TxSource
  txi : Nat
  rxp : RxPurpose
  divisor : Option Half
  /-- `ADDR_WIDTH` bits (10_state.md R20), kept in range by the check of 00_scope.md R7 at attach (log entry 2). -/
  base : Nat
  tickRate : Word
  cfgFormat : Option Byte
  cfgDivisor : Option Half
  cmdResult : PerCommand CmdResult
  fault : Byte
  deriving DecidableEq, Repr

/-- What stands around the engine: the observable trace, the harness, the host's pending requests, the line's answers. -/
structure Env where
  /-- The events so far, oldest first (00_scope.md R15). -/
  trace : List Event
  /-- The bus accesses so far, oldest first (20_memory.md R60). -/
  bus : List BusAccess
  /-- The bus words the line device answers next; when there are none, a free value (20_memory.md R55; log entry 7). -/
  line : List Word
  /-- How many `LineRead`s have been made (log entry 7). -/
  lineReads : Nat
  ctx : Ctx
  ret : RetVal
  /-- The harness program still to run (30_encoding.md R81; log entry 4). -/
  program : List ProgItem
  /-- The host's pending trigger call (30_encoding.md R78). -/
  port : Option HostCall
  /-- The host's pending attach (70_reset_and_hazards.md R200). -/
  attachReq : Option AttachInput
  /-- How many calls with a free argument were made (log entry 8). -/
  hostCalls : Nat
  deriving DecidableEq, Repr

/-- The state of the machine. -/
structure State where
  par : Params
  eng : Engine
  env : Env
  deriving DecidableEq, Repr

/-- Why the model stops without a next state. The engine's own faults are NOT here: `raise Fault(kind)` writes the `fault`
register and goes on to a state that takes no step (10_state.md R33). -/
inductive Fault
  /-- Raised by a micro-step whose index register names no write of `CFG_SEQ`, no byte of the sequence being sent, or no
  byte of `rbuf`: the step table gives such a state no step (43_shutdown_sequencer.md R170). No run from attach reaches
  it. Safe: the model stops where the spec says nothing. -/
  | indexOutOfRange
  deriving DecidableEq, Repr

/-- Why the model will not construct a step (00_scope.md R14). -/
inductive Refusal
  /-- An instruction without a meaning yet, raised by `exec`. Safe. -/
  | notModelled (mnemonic : String)
  /-- An item that decodes to no instruction (30_encoding.md R83), raised by `step`. Safe. -/
  | undecodable (e : DecodeError)
  /-- A harness invocation other than `TRIGGER` outside `IDLE` (30_encoding.md R81), raised by its meaning. Safe. -/
  | notIdle
  /-- `READ_BYTES` with a count above `RESPONSE_CAPACITY` (30_encoding.md R83), raised by its meaning. Safe. -/
  | countAboveCapacity
  /-- `ATTEMPT` with `attempt = RETRY_LIMIT` (42_frame_protocol.md R127), raised by its meaning. Safe. -/
  | attemptsUsedUp
  /-- An attach with a parameter set outside 00_scope.md R7, raised by `step`. Safe. -/
  | badParameters
  deriving DecidableEq, Repr

/-- The engine right after an attach with these inputs (10_state.md R20; 70_reset_and_hazards.md R200). -/
def Engine.attached (p : Params) (base : Nat) (tickRate : Word) : Engine where
  st := .idle
  cfgJ := 0
  cmdIdx := .watchdogKill
  attempt := 0
  frame := List.replicate (p.maxPayloadLen + 1) none
  frameLen := 0
  ack := List.replicate 3 none
  rbuf := List.replicate p.responseCapacity none
  rcount := 0
  k := 0
  txb := .frame
  txi := 0
  rxp := .resp
  divisor := none
  base := base
  tickRate := tickRate
  cfgFormat := none
  cfgDivisor := none
  cmdResult := ⟨.none, .none, .none⟩
  fault := 0#8

/-- The surroundings before anything has happened. -/
def Env.initial : Env where
  trace := []
  bus := []
  line := []
  lineReads := 0
  ctx := .engine
  ret := .noValue
  program := []
  port := none
  attachReq := none
  hostCalls := 0

/-- The machine right after attach with the reference parameters. `BASE` and `TICK_RATE` are inputs of which the spec gives
no value; the values here are those 95_test_vectors.md section 6 starts its programs from (DESIGN CHOICE, log entry 1). -/
def State.reset : State where
  par := Params.reference
  eng := Engine.attached Params.reference 0 60000000
  env := Env.initial

end Sys2Proof.Machine
end

