-- ==== Sys2Proof/Machine/Ops.lean ====
section
/-! DEFINITION. The named operations every meaning is built from: the primitives of 00_scope.md R12, the buffers, raising a
fault, and attach, the one thing that clears a fault. -/

namespace Sys2Proof.Machine

/-! ## Primitives -/

/-- Records an event (00_scope.md R15). -/
def emit (e : Event) (s : State) : State :=
  { s with env := { s.env with trace := s.env.trace ++ [e] } }

/-- The bus access to register `r` that carries `w` (20_memory.md R52, R57). -/
def accessOf (s : State) (isWrite : Bool) (r : LineReg) (w : Word) : BusAccess :=
  ⟨isWrite, regAddr s.par s.eng.base r, s.par.busWidth, w⟩

/-- The bus word the line device answers the next read with: the next scripted word, or a free value (20_memory.md R55). -/
def lineWord (s : State) : Word :=
  match s.env.line with
  | w :: _ => w
  | [] => Config.lineAnswer s.env.lineReads

/-- The byte of that word the engine sees (20_memory.md R55). -/
def lineByte (s : State) : Byte := busByte (lineWord s)

/-- The state after `v <- LineRead(r)`, whose `v` is `lineByte s` (20_memory.md R55). -/
def lineRead (r : LineReg) (s : State) : State :=
  { s with env := { s.env with
      line := s.env.line.tail
      lineReads := s.env.lineReads + 1
      bus := s.env.bus ++ [accessOf s false r (lineWord s)]
      trace := s.env.trace ++ [.rd r (lineByte s)] } }

/-- `LineWrite(r, v)` (20_memory.md R56). -/
def lineWrite (r : LineReg) (v : Byte) (s : State) : State :=
  { s with env := { s.env with
      bus := s.env.bus ++ [accessOf s true r (busWord v)]
      trace := s.env.trace ++ [.wr r v] } }

/-- `Sleep(d)`: an instant event that asks for at least `d` time units (60_exceptions.md R190). -/
def sleep (d : Nat) (s : State) : State := emit (.sleep d) s

/-- `Diag(code, data)` (60_exceptions.md R185). -/
def diag (code : DiagCode) (data : List Byte) (s : State) : State := emit (.diag code data) s

/-- `Return(res)`: the host's call completes, and the harness register takes its result (30_encoding.md R81);
for a call on the host's port too, the model's choice (log entry 34). -/
def returnCall (res : CallResult) (s : State) : State :=
  { s with env := { s.env with trace := s.env.trace ++ [.ret res], ret := .call res } }

/-! ## Faults -/

/-- The code written to `fault` (60_exceptions.md R187). -/
def FaultKind.code : FaultKind → Byte
  | .reentrantTrigger => 0x81
  | .badPayload => 0x82
  | .unwritten => 0x83

/-- `raise Fault(kind)`: the code goes to `fault`, the event is recorded, and every other register stays as it was
(10_state.md R33). The harness takes the invocation as ended by the fault (log entry 15). -/
def raiseFault (kind : FaultKind) (s : State) : State :=
  { s with
    eng := { s.eng with fault := kind.code }
    env := { s.env with trace := s.env.trace ++ [.fault kind], ctx := .engine } }

/-- A step that may fault. The fault is precise: it is raised in the state before the step, in place of the whole step
(60_exceptions.md R188, R189). -/
def settle (before : State) (r : Except FaultKind State) : State :=
  match r with
  | .ok t => t
  | .error kind => raiseFault kind before

/-! ## Buffers -/

/-- Reads the first `n` bytes of a buffer; a `⊥` byte among them raises `F_UNWRITTEN` (60_exceptions.md R188). -/
def readFirst : Nat → List (Option Byte) → Except FaultKind (List Byte)
  | 0, _ => .ok []
  | n + 1, some b :: rest =>
    match readFirst n rest with
    | .ok bs => .ok (b :: bs)
    | .error e => .error e
  | _ + 1, _ => .error .unwritten

/-- Reads byte `i` of a buffer; a `⊥` byte raises `F_UNWRITTEN` (60_exceptions.md R188). -/
def readAt (buf : List (Option Byte)) (i : Nat) : Except FaultKind Byte :=
  match buf[i]? with
  | some (some b) => .ok b
  | _ => .error .unwritten

/-- Reads a register that may hold `⊥` (60_exceptions.md R188). -/
def readReg {α : Type} : Option α → Except FaultKind α
  | some v => .ok v
  | none => .error .unwritten

/-- Writes the frame of `p` over the front of a buffer; the bytes past it stay as they were (42_frame_protocol.md R121). -/
def overwriteFrame (p : List Byte) (buf : List (Option Byte)) : List (Option Byte) :=
  (frameOf p).map some ++ buf.drop (p.length + 1)

/-- `BUILD_FRAME(p)` (42_frame_protocol.md R121). -/
def buildFrame (p : List Byte) (s : State) : Except FaultKind State :=
  if s.par.maxPayloadLen < p.length then .error .badPayload
  else .ok { s with eng := { s.eng with frame := overwriteFrame p s.eng.frame, frameLen := p.length + 1 } }

/-- Whether a payload's length is outside 2 to `MAX_PAYLOAD_LEN` (42_frame_protocol.md R122, R128). -/
def badPayloadLen (par : Params) (p : List Byte) : Bool :=
  decide (p.length < 2) || decide (par.maxPayloadLen < p.length)

/-- `EXPECTED_ACK(p)` (42_frame_protocol.md R122). -/
def expectedAck (p : List Byte) (s : State) : Except FaultKind State :=
  if badPayloadLen s.par p then .error .badPayload
  else .ok { s with eng := { s.eng with ack := (ackOf (p.getD 1 0)).map some } }

/-! ## Attach -/

/-- Attach: every register of 10_state.md R20 takes its reset value, no event is recorded and no line access is made; a
running call is abandoned (70_reset_and_hazards.md R200; log entry 16). -/
def attachNow (a : AttachInput) (s : State) : State :=
  { par := a.params
    eng := Engine.attached a.params a.base a.tickRate
    env := { s.env with attachReq := none, ctx := .engine } }

/-- An attach request: refused where the parameters break 00_scope.md R7. -/
def attach (a : AttachInput) (s : State) : Host.Outcome State Fault Refusal :=
  if paramsValid a.params a.base then .next (attachNow a s) else .refused .badParameters

end Sys2Proof.Machine
end

