-- ==== Sys2Proof/Machine/Flags.lean ====
section
/-! DEFINITION. The conditions the engine tests (10_state.md R38). It has no flags register: each is computed where it is
needed. Also the status view (10_state.md R34), which is computed from the registers and stored nowhere. -/

namespace Sys2Proof.Machine

/-- DR in an `LSR` value: a received byte waits (20_memory.md R53). -/
def dataReady (p : Params) (v : Byte) : Bool := v.getLsbD p.lsrDrBit

/-- THRE in an `LSR` value: `DATA` may be written (20_memory.md R53). -/
def holdingEmpty (p : Params) (v : Byte) : Bool := v.getLsbD p.lsrThreBit

/-- "short": `count <= 3` (42_frame_protocol.md R123). -/
def isShort (rcount : Nat) : Bool := decide (rcount ≤ 3)

/-- "checksum good": `sum8(rbuf[0..3]) = 0` (42_frame_protocol.md R124). -/
def checksumGood (rbuf : List (Option Byte)) : Except FaultKind Bool :=
  match readFirst 4 rbuf with
  | .ok bs => .ok (decide (sum8 bs = 0))
  | .error e => .error e

/-- "ack matches": `rbuf[0..2] = ack[0..2]`; every byte is read, so any `⊥` among the six faults (42_frame_protocol.md
R125; log entry 17). -/
def ackMatches (rbuf ack : List (Option Byte)) : Except FaultKind Bool :=
  match readFirst 3 rbuf with
  | .error e => .error e
  | .ok got =>
    match readFirst 3 ack with
    | .ok want => .ok (decide (got = want))
    | .error e => .error e

/-- The tests of a response in their order: length, checksum, content; a failure stops the tests after it (30_encoding.md
R72; 42_frame_protocol.md R127). -/
def judge (e : Engine) : Except FaultKind AttemptOutcome :=
  if isShort e.rcount then .ok .short
  else
    match checksumGood e.rbuf with
    | .error k => .error k
    | .ok false => .ok .badCsum
    | .ok true =>
      match ackMatches e.rbuf e.ack with
      | .error k => .error k
      | .ok true => .ok .acked
      | .ok false => .ok .nak

/-- The code of a micro-state (10_state.md R21). -/
def MicroState.code : MicroState → Nat
  | .idle => 0
  | .cfg => 1
  | .txPoll => 2
  | .txWrite => 3
  | .rxPoll => 4
  | .rxSleep => 5
  | .rxData => 6
  | .diagShort => 7
  | .settleFlush => 8
  | .diagCsum => 9
  | .diagNak => 10
  | .postOk => 11
  | .diagExh => 12
  | .exhSleep => 13
  | .returning => 14
  | .done => 15

/-- Whether the engine has a step in this micro-state: all but `IDLE` and `DONE` (43_shutdown_sequencer.md R170). -/
def MicroState.active : MicroState → Bool
  | .idle => false
  | .done => false
  | _ => true

/-- The code of a command result (10_state.md R20). -/
def CmdResult.code : CmdResult → Nat
  | .none => 0
  | .ok => 1
  | .fail => 2

/-- The code of a diagnostic (60_exceptions.md R186). -/
def DiagCode.code : DiagCode → Byte
  | .rxShort => 0x01
  | .csumErr => 0x02
  | .nak => 0x03
  | .exhausted => 0x04

/-- The harness label of a call result (30_encoding.md R78, R82). -/
def CallResult.code : CallResult → Byte
  | .notHandled => 0
  | .handled => 1

/-- The status view `STATUS` (10_state.md R34): fields from bit 31 down to bit 0, reserved bits 0. -/
def status (e : Engine) : Word :=
  e.fault ++ (0 : BitVec 4) ++ BitVec.ofNat 2 e.cmdResult.powerOff.code ++ BitVec.ofNat 2 e.cmdResult.shutdownWait.code ++
    BitVec.ofNat 2 e.cmdResult.watchdogKill.code ++ BitVec.ofNat 4 e.attempt ++ BitVec.ofNat 2 e.cmdIdx.index ++
    (0 : BitVec 1) ++ BitVec.ofNat 3 e.cfgJ ++ BitVec.ofNat 4 e.st.code

/-- The time units a trace asks the Timer for, a lower bound of the time it takes (60_exceptions.md R190). -/
def sleepUnits : List Event → Nat
  | [] => 0
  | .sleep d :: rest => d + sleepUnits rest
  | _ :: rest => sleepUnits rest

/-- The same in milliseconds (`TIME_UNIT`, 00_scope.md R6). -/
def sleepMillis (p : Params) (trace : List Event) : Nat := p.timeUnit * sleepUnits trace

end Sys2Proof.Machine
end

