-- ==== Sys2Proof/Machine/Engine.lean ====
section
/-! DEFINITION. The engine's step relation (43_shutdown_sequencer.md R170): one primitive for each micro-state, then the
updates of its row. The harness context `ctx` says where an operation started by itself ends (30_encoding.md R81, R85);
under `Ctx.engine` every definition here is the table's. -/

namespace Sys2Proof.Machine

/-- Moves to a micro-state. -/
def goto (st : MicroState) (s : State) : State := { s with eng := { s.eng with st := st } }

/-- Ends a harness invocation: `st = IDLE`, and `ret` takes the return value (30_encoding.md R81). -/
def finish (v : RetVal) (s : State) : State :=
  { s with eng := { s.eng with st := .idle }, env := { s.env with ctx := .engine, ret := v } }

/-! ## The procedures of R170 -/

/-- `begin_tx(src)`. -/
def beginTx (src : TxSource) (s : State) : State :=
  { s with eng := { s.eng with txb := src, txi := 0, st := .txPoll } }

/-- The fresh buffer, and the first poll of a read (10_state.md R27, R28; 41_byte_transport.md R104). -/
def freshRead (s : State) : State :=
  { s with eng := { s.eng with rbuf := List.replicate s.par.responseCapacity none, rcount := 0, k := 1, st := .rxPoll } }

/-- `begin_rx(p)`. -/
def beginRx (p : RxPurpose) (s : State) : State :=
  freshRead { s with eng := { s.eng with rxp := p } }

/-- `begin_attempt()`. -/
def beginAttempt (s : State) : State :=
  beginTx .frame { s with eng := { s.eng with attempt := s.eng.attempt + 1 } }

/-- The start of `SEND_COMMAND(p)`: the length test, the frame, the acknowledgement, the first attempt
(42_frame_protocol.md R128; 43_shutdown_sequencer.md R170, `begin_command`). -/
def startCommand (p : List Byte) (s : State) : Except FaultKind State :=
  if badPayloadLen s.par p then .error .badPayload
  else
    match buildFrame p s with
    | .error k => .error k
    | .ok s1 =>
      match expectedAck p s1 with
      | .error k => .error k
      | .ok s2 => .ok (beginAttempt { s2 with eng := { s2.eng with attempt := 0 } })

/-- `begin_command(i)`. -/
def beginCommand (c : Command) (s : State) : Except FaultKind State :=
  startCommand (s.par.payload.get c) { s with eng := { s.eng with cmdIdx := c } }

/-- `command_done(r)`. A harness `SEND_COMMAND` returns `r` instead (42_frame_protocol.md R128), and a harness
`RUN_SEQUENCE` ends after the third command (43_shutdown_sequencer.md R156). -/
def commandDone (r : CmdResult) (s : State) : Except FaultKind State :=
  match s.env.ctx with
  | .sendCommand => .ok (finish (.command r) s)
  | ctx =>
    let s1 := { s with eng := { s.eng with cmdResult := s.eng.cmdResult.set s.eng.cmdIdx r } }
    match s.eng.cmdIdx.next? with
    | some c => beginCommand c s1
    | none => if ctx = .runSequence then .ok (finish .noValue s1) else .ok (goto .returning s1)

/-- The end of an attempt: an acknowledgement goes to the post-command delay, and any other outcome is `attempt_failed()`.
A harness `ATTEMPT` returns the outcome instead (42_frame_protocol.md R127). -/
def attemptEnd (o : AttemptOutcome) (s : State) : State :=
  match s.env.ctx with
  | .attempt => finish (.attempt o) s
  | _ =>
    match o with
    | .acked => goto .postOk s
    | _ => if s.eng.attempt < s.par.retryLimit then beginAttempt s else goto .diagExh s

/-- `tx_done()`. A harness transmission ends here (41_byte_transport.md R105). -/
def txDone (s : State) : State :=
  match s.env.ctx with
  | .writeByte _ => finish .noValue s
  | .writeBytes _ => finish .noValue s
  | .transmit => finish .noValue s
  | _ =>
    match s.eng.txb with
    | .frame => beginRx .resp s
    | .flush => goto .settleFlush s

/-- `rx_done()`: a drain read ends the attempt; a response read is judged. Harness reads end here, each with its own
return value (41_byte_transport.md R101, R104; 42_frame_protocol.md R126). -/
def rxDone (s : State) : Except FaultKind State :=
  match s.env.ctx with
  | .readByte => .ok (finish (.received none) s)
  | .readBytes _ => .ok (finish (.response s.eng.rbuf s.eng.rcount) s)
  | .resync => .ok (finish .noValue s)
  | .response =>
    match judge s.eng with
    | .error k => .error k
    | .ok o => .ok (finish (.attempt o) s)
  | _ =>
    match s.eng.rxp with
    | .drain => .ok (attemptEnd .short s)
    | .resp =>
      match judge s.eng with
      | .error k => .error k
      | .ok .short => .ok (goto .diagShort s)
      | .ok .badCsum => .ok (goto .diagCsum s)
      | .ok .nak => .ok (goto .diagNak s)
      | .ok .acked => .ok (attemptEnd .acked s)

/-- `accept()` (43_shutdown_sequencer.md R170, R155): also the start of `RECONFIGURE`. -/
def accept (s : State) : State :=
  { s with eng := { s.eng with divisor := some (divisorOf s.par s.eng.tickRate), cfgJ := 0, st := .cfg } }

/-! ## Operands of the micro-states -/

/-- The divisor and the format being configured: the harness `CONFIGURE`'s operands, or `divisor` and `LCR_FORMAT`. -/
def cfgOperands (s : State) : Option Half × Byte :=
  match s.env.ctx with
  | .configure d f => (some d, f)
  | _ => (s.eng.divisor, s.par.lcrFormat)

/-- `txlen` (R170); for a harness transmission, the length of its operand. -/
def txLen (s : State) : Nat :=
  match s.env.ctx with
  | .writeByte _ => 1
  | .writeBytes bs => bs.length
  | _ =>
    match s.eng.txb with
    | .frame => s.eng.frameLen
    | .flush => s.par.responseCapacity

/-- `txbyte` (R170); for a harness transmission, a byte of its operand. -/
def txByte (s : State) : Except FaultKind Byte :=
  match s.env.ctx with
  | .writeByte b => .ok b
  | .writeBytes bs => readReg bs[s.eng.txi]?
  | _ =>
    match s.eng.txb with
    | .frame => readAt s.eng.frame s.eng.txi
    | .flush => .ok s.par.flushByte

/-- How many bytes the current read collects at most: `RESPONSE_CAPACITY`, or a harness `READ_BYTES`'s operand. -/
def rxMax (s : State) : Nat :=
  match s.env.ctx with
  | .readBytes m => m
  | _ => s.par.responseCapacity

/-! ## The rows of the step table -/

/-- `CFG`: configuration write number `cfg_j`. -/
def cfgStep (s : State) : Except FaultKind State :=
  match (cfgSeq s.par (cfgOperands s).1 (cfgOperands s).2)[s.eng.cfgJ]? with
  | some (r, some v) =>
    let s1 := lineWrite r v s
    let s2 := { s1 with eng := { s1.eng with cfgJ := s.eng.cfgJ + 1 } }
    if s.eng.cfgJ + 1 = cfgLen s.par then
      match (cfgOperands s).1 with
      | none => .error .unwritten
      | some d =>
        let s3 := { s2 with eng := { s2.eng with cfgDivisor := some d, cfgFormat := some (cfgOperands s).2 } }
        match s.env.ctx with
        | .configure _ _ => .ok (finish .noValue s3)
        | .reconfigure => .ok (finish .noValue s3)
        | _ => beginCommand .watchdogKill s3
    else .ok s2
  | _ => .error .unwritten

/-- `TX_POLL`: poll for THRE; no bound and no sleep (41_byte_transport.md R102). -/
def txPollStep (s : State) : State :=
  if holdingEmpty s.par (lineByte s) then goto .txWrite (lineRead .lsr s) else lineRead .lsr s

/-- `TX_WRITE`. A harness `WRITE_BYTE` has no `txi` of its own (41_byte_transport.md R102). -/
def txWriteStep (s : State) : Except FaultKind State :=
  match txByte s with
  | .error k => .error k
  | .ok b =>
    let s1 := lineWrite .data b s
    match s.env.ctx with
    | .writeByte _ => .ok (txDone s1)
    | _ =>
      let s2 := { s1 with eng := { s1.eng with txi := s.eng.txi + 1 } }
      if s.eng.txi + 1 = txLen s then .ok (txDone s2) else .ok (goto .txPoll s2)

/-- `RX_POLL`: DR is tested before the poll limit (60_exceptions.md R193). -/
def rxPollStep (s : State) : Except FaultKind State :=
  let s1 := lineRead .lsr s
  if dataReady s.par (lineByte s) then .ok (goto .rxData s1)
  else if s.eng.k = s.par.readPollLimit then rxDone s1
  else .ok (goto .rxSleep s1)

/-- `RX_SLEEP`. -/
def rxSleepStep (s : State) : State :=
  let s1 := sleep s.par.pollInterval s
  { s1 with eng := { s1.eng with k := s.eng.k + 1, st := .rxPoll } }

/-- `RX_DATA`. A harness `READ_BYTE` returns the byte and stores nothing (41_byte_transport.md R101). -/
def rxDataStep (s : State) : Except FaultKind State :=
  let s1 := lineRead .data s
  match s.env.ctx with
  | .readByte => .ok (finish (.received (some (lineByte s))) s1)
  | _ =>
    let s2 := { s1 with eng := { s1.eng with
      rbuf := s.eng.rbuf.set s.eng.rcount (some (lineByte s)), rcount := s.eng.rcount + 1 } }
    if s.eng.rcount + 1 = rxMax s then rxDone s2
    else .ok { s2 with eng := { s2.eng with k := 1, st := .rxPoll } }

/-- `DIAG_SHORT`. -/
def diagShortStep (s : State) : State :=
  beginTx .flush (diag .rxShort [BitVec.ofNat 8 s.eng.rcount] s)

/-- `SETTLE_FLUSH`. -/
def settleFlushStep (s : State) : State := beginRx .drain (sleep s.par.flushSettle s)

/-- `DIAG_CSUM`. -/
def diagCsumStep (s : State) : Except FaultKind State :=
  match readFirst 4 s.eng.rbuf with
  | .error k => .error k
  | .ok bs => .ok (goto .diagNak (diag .csumErr bs s))

/-- `DIAG_NAK`. What a harness `ATTEMPT` returns tells the two ways here apart by the checksum (42_frame_protocol.md R127). -/
def diagNakStep (s : State) : Except FaultKind State :=
  let s1 := diag .nak [] s
  match s.env.ctx with
  | .attempt =>
    match checksumGood s.eng.rbuf with
    | .error k => .error k
    | .ok true => .ok (attemptEnd .nak s1)
    | .ok false => .ok (attemptEnd .badCsum s1)
  | _ => .ok (attemptEnd .nak s1)

/-- `POST_OK`. -/
def postOkStep (s : State) : Except FaultKind State := commandDone .ok (sleep s.par.postCmdDelay s)

/-- `DIAG_EXH`. -/
def diagExhStep (s : State) : State :=
  goto .exhSleep (diag .exhausted [BitVec.ofNat 8 s.eng.cmdIdx.index] s)

/-- `EXH_SLEEP`. -/
def exhSleepStep (s : State) : Except FaultKind State := commandDone .fail (sleep s.par.postCmdDelay s)

/-- `RETURN`: the host's call completes with `HANDLED`, whatever the results (43_shutdown_sequencer.md R158). -/
def returnStep (s : State) : State := goto .done (returnCall .handled s)

/-- The row of the current micro-state; `IDLE` and `DONE` have none. -/
def microRow (s : State) : Except FaultKind State :=
  match s.eng.st with
  | .idle => .ok s
  | .cfg => cfgStep s
  | .txPoll => .ok (txPollStep s)
  | .txWrite => txWriteStep s
  | .rxPoll => rxPollStep s
  | .rxSleep => .ok (rxSleepStep s)
  | .rxData => rxDataStep s
  | .diagShort => .ok (diagShortStep s)
  | .settleFlush => .ok (settleFlushStep s)
  | .diagCsum => diagCsumStep s
  | .diagNak => diagNakStep s
  | .postOk => postOkStep s
  | .diagExh => .ok (diagExhStep s)
  | .exhSleep => exhSleepStep s
  | .returning => .ok (returnStep s)
  | .done => .ok s

/-- Whether the index register the row uses names an element: a write of `CFG_SEQ`, a byte to send, a byte of `rbuf`. -/
def indexInRange (s : State) : Bool :=
  match s.eng.st with
  | .cfg => decide (s.eng.cfgJ < cfgLen s.par)
  | .txWrite =>
    match s.env.ctx with
    | .writeByte _ => true
    | _ => decide (s.eng.txi < txLen s)
  | .rxData =>
    match s.env.ctx with
    | .readByte => true
    | _ => decide (s.eng.rcount < s.eng.rbuf.length)
  | _ => true

/-- One engine step. -/
def microStep (s : State) : Host.Outcome State Fault Refusal :=
  if indexInRange s then .next (settle s (microRow s)) else .fault .indexOutOfRange

/-! ## Harness invocations -/

/-- A harness invocation other than `TRIGGER`: refused outside `IDLE` and for the reason given, if any; without effect and
without end under a fault; otherwise run from the current state with `ret` holding no value yet (30_encoding.md R81,
R83; 10_state.md R33; log entries 5, 15). -/
def invoke (refusal : Option Refusal) (run : State → Except FaultKind State) (s : State) : Host.Outcome State Fault Refusal :=
  if s.eng.st ≠ .idle then .refused .notIdle
  else
    match refusal with
    | some r => .refused r
    | none =>
      if s.eng.fault ≠ 0#8 then .next { s with env := { s.env with ctx := .stuck, ret := .noValue } }
      else
        let s0 := { s with env := { s.env with ret := .noValue } }
        .next (settle s0 (run s0))

/-- Runs the rest of the invocation under a context. -/
def enter (ctx : Ctx) (s : State) : State := { s with env := { s.env with ctx := ctx } }

end Sys2Proof.Machine
end

