-- ==== Sys2Proof/Machine/ByteTransport.lean ====
section
/-! DEFINITION. The Byte Transport's operations, invoked by the harness (41_byte_transport.md). Each starts its pseudocode;
the engine's steps (Machine/Engine.lean) perform its primitives one by one. -/

namespace Sys2Proof.Machine

/-- `CONFIGURE divisor, format` (R100): `cfg_j <- 0`, then the writes of `CFG_SEQ` with these operands. DESIGN CHOICE: a format
with bit 7 set is written as given (log entry 35). -/
def execConfigure (divisor : Half) (format : Byte) (s : State) : Host.Outcome State Fault Refusal :=
  invoke none (fun s0 => .ok (enter (.configure divisor format) { s0 with eng := { s0.eng with cfgJ := 0, st := .cfg } })) s

/-- `READ_BYTE` (R101): `k <- 1`, then the first poll at once. -/
def execReadByte (s : State) : Host.Outcome State Fault Refusal :=
  invoke none (fun s0 => .ok (enter .readByte { s0 with eng := { s0.eng with k := 1, st := .rxPoll } })) s

/-- `WRITE_BYTE b` (R102): poll for THRE, then write. -/
def execWriteByte (b : Byte) (s : State) : Host.Outcome State Fault Refusal :=
  invoke none (fun s0 => .ok (enter (.writeByte b) (goto .txPoll s0))) s

/-- `READ_BYTES max` (R104): a fresh buffer; `max = 0` makes no access; a count above `RESPONSE_CAPACITY` is refused. -/
def execReadBytes (max : Byte) (s : State) : Host.Outcome State Fault Refusal :=
  invoke (if s.par.responseCapacity < max.toNat then some .countAboveCapacity else none)
    (fun s0 =>
      if max = 0 then
        let s1 := { s0 with eng := { s0.eng with rbuf := List.replicate s0.par.responseCapacity none, rcount := 0 } }
        .ok (finish (.response s1.eng.rbuf 0) s1)
      else .ok (enter (.readBytes max.toNat) (freshRead s0))) s

/-- `WRITE_BYTES s` (R105): `txi <- 0`; an empty sequence makes no access. -/
def execWriteBytes (bs : List Byte) (s : State) : Host.Outcome State Fault Refusal :=
  invoke none
    (fun s0 =>
      let s1 := { s0 with eng := { s0.eng with txi := 0 } }
      if bs = [] then .ok (finish .noValue s1) else .ok (enter (.writeBytes bs) (goto .txPoll s1))) s

end Sys2Proof.Machine
end

