-- ==== Sys2Proof/Machine/FrameProtocol.lean ====
section
/-! DEFINITION. The Frame Protocol's operations, invoked by the harness (42_frame_protocol.md). -/

namespace Sys2Proof.Machine

/-- `CHECKSUM s` (R120): writes no register and records no event. -/
def execChecksum (bs : List Byte) (s : State) : Host.Outcome State Fault Refusal :=
  invoke none (fun s0 => .ok (finish (.byte (checksumOf bs)) s0)) s

/-- `BUILD_FRAME p` (R121). -/
def execBuildFrame (p : List Byte) (s : State) : Host.Outcome State Fault Refusal :=
  invoke none (fun s0 => (buildFrame p s0).map (finish .noValue)) s

/-- `EXPECTED_ACK p` (R122). -/
def execExpectedAck (p : List Byte) (s : State) : Host.Outcome State Fault Refusal :=
  invoke none (fun s0 => (expectedAck p s0).map (finish .noValue)) s

/-- `CHECK_LENGTH` (R123). -/
def execCheckLength (s : State) : Host.Outcome State Fault Refusal :=
  invoke none (fun s0 => .ok (finish (.length (isShort s0.eng.rcount)) s0)) s

/-- `VERIFY_CHECKSUM` (R124). -/
def execVerifyChecksum (s : State) : Host.Outcome State Fault Refusal :=
  invoke none (fun s0 => (checksumGood s0.eng.rbuf).map (fun good => finish (.test good) s0)) s

/-- `COMPARE_ACK` (R125). -/
def execCompareAck (s : State) : Host.Outcome State Fault Refusal :=
  invoke none (fun s0 => (ackMatches s0.eng.rbuf s0.eng.ack).map (fun same => finish (.test same) s0)) s

/-- `RESYNC` (R126): the preamble, the settle delay, the drain read. -/
def execResync (s : State) : Host.Outcome State Fault Refusal :=
  invoke none (fun s0 => .ok (enter .resync (beginTx .flush s0))) s

/-- `ATTEMPT` (R127): refused when `attempt` has reached `RETRY_LIMIT`; a frame of no bytes makes no access before the
response read (41_byte_transport.md R105). -/
def execAttempt (s : State) : Host.Outcome State Fault Refusal :=
  invoke (if s.par.retryLimit ≤ s.eng.attempt then some .attemptsUsedUp else none)
    (fun s0 =>
      let s1 := enter .attempt (beginAttempt s0)
      if s0.eng.frameLen = 0 then .ok (txDone s1) else .ok s1) s

/-- `SEND_COMMAND p` (R128). -/
def execSendCommand (p : List Byte) (s : State) : Host.Outcome State Fault Refusal :=
  invoke none (fun s0 => startCommand p (enter .sendCommand s0)) s

end Sys2Proof.Machine
end

