-- ==== Sys2Proof/Machine/Sequencer.lean ====
section
/-! DEFINITION. The Shutdown Sequencer's operations (43_shutdown_sequencer.md): the host's trigger, and the harness
invocations of its parts. -/

namespace Sys2Proof.Machine

/-- The reason of a call in the host's own numbering (30_encoding.md R78). -/
def hostReason (p : Params) (code : Nat) : Reason :=
  if code = p.reasonCodeShutdown then .shutdown else if code = p.reasonCodeHalt then .halt else .other code

/-- Whether the reason is one of the two accepted ones (R151). -/
def accepted : Reason → Bool
  | .shutdown => true
  | .halt => true
  | .other _ => false

/-- The host's call on the trigger port (R150 to R152), allowed in every state. The tests are in the order fault, reason,
re-entry (60_exceptions.md R189). Under a fault the call is recorded and never returns. DESIGN CHOICE: a call on the host's port,
which is no harness invocation, writes the harness register `ret` as a harness `TRIGGER` does, even while a harness operation
runs (log entry 34). -/
def triggerCall (reason : Reason) (arg : Word) (s : State) : State :=
  let s1 := emit (.trig reason arg) s
  if s.eng.fault ≠ 0#8 then { s1 with env := { s1.env with ctx := .stuck, ret := .noValue } }
  else if accepted reason = false then returnCall .notHandled s1
  else if s.eng.st ≠ .idle then raiseFault .reentrantTrigger { s1 with env := { s1.env with ret := .noValue } }
  else accept { s1 with env := { s1.env with ctx := .engine, ret := .noValue } }

/-- `TRIGGER reason, arg` (R150). -/
def execTrigger (reason : Reason) (arg : Word) (s : State) : Host.Outcome State Fault Refusal :=
  .next (triggerCall reason arg s)

/-- `COMPUTE_DIVISOR t` (R153): writes no register and records no event. -/
def execComputeDivisor (t : Word) (s : State) : Host.Outcome State Fault Refusal :=
  invoke none (fun s0 => .ok (finish (.divisor (divisorOf s0.par t)) s0)) s

/-- `RECONFIGURE` (R155). -/
def execReconfigure (s : State) : Host.Outcome State Fault Refusal :=
  invoke none (fun s0 => .ok (enter .reconfigure (accept s0))) s

/-- `RUN_SEQUENCE` (R156): the first of the three commands; `command_done` goes on to the others. -/
def execRunSequence (s : State) : Host.Outcome State Fault Refusal :=
  invoke none (fun s0 => beginCommand .watchdogKill (enter .runSequence s0)) s

end Sys2Proof.Machine
end

