-- ==== Sys2Proof/Machine/WireFormats.lean ====
section
/-! DEFINITION. The meanings of the opcode table's wire rows and reason rows (30_encoding.md R71 to R75, R82). The spec
gives these rows a format and a direction and no operation of their own; log entries 10 to 12 say how the model runs
each. -/

namespace Sys2Proof.Machine

/-- The engine builds the frame of `p` and sends it, first byte first, and does nothing more (30_encoding.md R71). -/
def sendFrame (p : List Byte) (s : State) : Except FaultKind State :=
  (buildFrame p s).map (fun s1 => enter .transmit (beginTx .frame s1))

/-- FRAME_WATCHDOG_KILL: the frame of `PAYLOAD[0]` (30_encoding.md R75). -/
def execFrameWatchdogKill (s : State) : Host.Outcome State Fault Refusal :=
  invoke none (fun s0 => sendFrame s0.par.payload.watchdogKill s0) s

/-- FRAME_SHUTDOWN_WAIT: the frame of `PAYLOAD[1]` (30_encoding.md R75). -/
def execFrameShutdownWait (s : State) : Host.Outcome State Fault Refusal :=
  invoke none (fun s0 => sendFrame s0.par.payload.shutdownWait s0) s

/-- FRAME_POWER_OFF: the frame of `PAYLOAD[2]` (30_encoding.md R75). -/
def execFramePowerOff (s : State) : Host.Outcome State Fault Refusal :=
  invoke none (fun s0 => sendFrame s0.par.payload.powerOff s0) s

/-- COMMAND_FRAME: the frame of any payload (30_encoding.md R71). -/
def execCommandFrame (p : List Byte) (s : State) : Host.Outcome State Fault Refusal :=
  invoke none (fun s0 => sendFrame p s0) s

/-- ACK_RESPONSE: the line delivers the response's bytes to one response read, and the engine judges it against `ack`
(30_encoding.md R72; log entry 11). -/
def execAckResponse (a : Byte) (tail : List Byte) (s : State) : Host.Outcome State Fault Refusal :=
  invoke none
    (fun s0 =>
      let s1 := { s0 with env := { s0.env with line := deliveryOf s0.par (responseOf a tail) ++ s0.env.line } }
      .ok (enter .response (beginRx .resp s1))) s

/-- EXPECTED_ACK, the wire reference `01 a 00`: the bytes become the Expected Acknowledgement (30_encoding.md R73). -/
def execExpectedAckRef (a : Byte) (s : State) : Host.Outcome State Fault Refusal :=
  invoke none (fun s0 => .ok (finish .noValue { s0 with eng := { s0.eng with ack := (ackOf a).map some } })) s

/-- RESYNC_PREAMBLE: `RESPONSE_CAPACITY` copies of `FLUSH_BYTE` are sent, and nothing more (30_encoding.md R74; log entry
10). -/
def execResyncPreamble (s : State) : Host.Outcome State Fault Refusal :=
  invoke none (fun s0 => .ok (enter .transmit (beginTx .flush s0))) s

/-- A call whose argument the spec does not give: a free value (30_encoding.md R78; log entry 8). -/
def callWithFreeArgument (reason : Reason) (s : State) : State :=
  triggerCall reason (Config.hostArgument s.env.hostCalls) { s with env := { s.env with hostCalls := s.env.hostCalls + 1 } }

/-- REASON_SHUTDOWN: the host raises the notification with this reason (30_encoding.md R82; 43_shutdown_sequencer.md R150). -/
def execReasonShutdown (s : State) : Host.Outcome State Fault Refusal :=
  .next (callWithFreeArgument .shutdown s)

/-- REASON_HALT: the host raises the notification with this reason (30_encoding.md R82; 43_shutdown_sequencer.md R150). -/
def execReasonHalt (s : State) : Host.Outcome State Fault Refusal :=
  .next (callWithFreeArgument .halt s)

end Sys2Proof.Machine
end

