-- ==== Sys2Proof/Machine/Dispatch.lean ====
section
/-! DEFINITION. The meaning of each instruction: one arm per constructor. -/

namespace Sys2Proof.Machine

def exec (i : Instr) (s : State) : Host.Outcome State Fault Refusal :=
  match i with
  -- Byte Transport
  | .configure d f => Sys2Proof.Machine.execConfigure d f s
  | .readByte => Sys2Proof.Machine.execReadByte s
  | .writeByte b => Sys2Proof.Machine.execWriteByte b s
  | .readBytes m => Sys2Proof.Machine.execReadBytes m s
  | .writeBytes bs => Sys2Proof.Machine.execWriteBytes bs s
  -- Frame Protocol
  | .checksum bs => Sys2Proof.Machine.execChecksum bs s
  | .buildFrame p => Sys2Proof.Machine.execBuildFrame p s
  | .expectedAck p => Sys2Proof.Machine.execExpectedAck p s
  | .checkLength => Sys2Proof.Machine.execCheckLength s
  | .verifyChecksum => Sys2Proof.Machine.execVerifyChecksum s
  | .compareAck => Sys2Proof.Machine.execCompareAck s
  | .resync => Sys2Proof.Machine.execResync s
  | .attempt => Sys2Proof.Machine.execAttempt s
  | .sendCommand p => Sys2Proof.Machine.execSendCommand p s
  -- Shutdown Sequencer
  | .trigger r arg => Sys2Proof.Machine.execTrigger r arg s
  | .computeDivisor t => Sys2Proof.Machine.execComputeDivisor t s
  | .reconfigure => Sys2Proof.Machine.execReconfigure s
  | .runSequence => Sys2Proof.Machine.execRunSequence s
  -- Wire formats and reason codes
  | .frameWatchdogKill => Sys2Proof.Machine.execFrameWatchdogKill s
  | .frameShutdownWait => Sys2Proof.Machine.execFrameShutdownWait s
  | .framePowerOff => Sys2Proof.Machine.execFramePowerOff s
  | .commandFrame p => Sys2Proof.Machine.execCommandFrame p s
  | .ackResponse a tail => Sys2Proof.Machine.execAckResponse a tail s
  | .expectedAckRef a => Sys2Proof.Machine.execExpectedAckRef a s
  | .resyncPreamble => Sys2Proof.Machine.execResyncPreamble s
  | .reasonShutdown => Sys2Proof.Machine.execReasonShutdown s
  | .reasonHalt => Sys2Proof.Machine.execReasonHalt s

end Sys2Proof.Machine
end

