-- ==== Sys2Proof/Machine/Fetch.lean ====
section
/-! DEFINITION. Taking the next instruction of the harness program (30_encoding.md R81, R82). -/

namespace Sys2Proof.Machine

/-- The program with the front item's remaining bytes put back, if any remain. DESIGN CHOICE: bytes left after an invocation's
operands are read as the next invocation; 30_encoding.md R82 and R83 speak only of too few bytes (log entry 36). -/
def putBack (item : ProgItem) (left : List Byte) (rest : List ProgItem) : List ProgItem :=
  if left = [] then rest else { item with bytes := left } :: rest

/-- The next instruction and the state that has moved past its bytes; `none` where the program has ended. -/
def fetch (s : State) : Option (Except DecodeError (Instr × State)) :=
  match s.env.program with
  | [] => none
  | item :: rest =>
    match decodeItem s.par item with
    | .error e => some (.error e)
    | .ok (i, left) => some (.ok (i, { s with env := { s.env with program := putBack item left rest } }))

/-- Whether the engine has an enabled step (43_shutdown_sequencer.md R170; 10_state.md R33). -/
def engineRunning (s : State) : Bool := decide (s.eng.fault = 0#8) && s.eng.st.active

/-- The state that fetches this item next: no pending request, no call that never returns, no engine step under way. -/
def readyToFetch (item : ProgItem) (s : State) : State :=
  { s with
    eng := { s.eng with st := if engineRunning s then .idle else s.eng.st }
    env := { s.env with
      attachReq := none
      port := none
      ctx := if engineRunning s ∨ s.env.ctx = .stuck then .engine else s.env.ctx
      program := item :: s.env.program } }

end Sys2Proof.Machine
end

