-- ==== Sys2Proof/Machine/Step.lean ====
section
/-! DEFINITION. One step of the machine, in this order: a pending attach (70_reset_and_hazards.md R200); the host's pending
trigger call (43_shutdown_sequencer.md R150); nothing, while a call never returns (10_state.md R33); the engine's one
enabled primitive (00_scope.md R16); the harness program's next invocation (30_encoding.md R81); nothing, when there is
none: `IDLE` and `DONE` take no step and keep every register (43_shutdown_sequencer.md R159; log entry 18). -/

namespace Sys2Proof.Machine

def step (s : State) : Host.Outcome State Fault Refusal :=
  match s.env.attachReq with
  | some a => attach a s
  | none =>
    match s.env.port with
    | some call => exec (.trigger (hostReason s.par call.code) call.arg) { s with env := { s.env with port := none } }
    | none =>
      if s.env.ctx = .stuck then .next s
      else if engineRunning s then microStep s
      else
        match fetch s with
        | none => .next s
        | some (.error e) => .refused (.undecodable e)
        | some (.ok (i, s1)) => exec i s1

/-- `s` with a table word placed where `step` fetches its next instruction (log entries 4, 14). -/
def State.withFetchWord (s : State) (nbits w : Nat) : State := readyToFetch (itemOfWord s.par nbits w) s

end Sys2Proof.Machine
end

