-- ==== Sys2Proof/Machine/Text.lean ====
section
/-! DEFINITION. The textual syntax of harness programs (30_encoding.md R84) and of traces (R86), as lists of characters. -/

namespace Sys2Proof.Machine

/-! ## Writing -/

/-- The mnemonic of an instruction, as spec/opcode_table.json spells it (30_encoding.md R80). -/
def mnemonic : Instr → String
  | .configure _ _ => "CONFIGURE"
  | .readByte => "READ_BYTE"
  | .writeByte _ => "WRITE_BYTE"
  | .readBytes _ => "READ_BYTES"
  | .writeBytes _ => "WRITE_BYTES"
  | .checksum _ => "CHECKSUM"
  | .buildFrame _ => "BUILD_FRAME"
  | .expectedAck _ => "EXPECTED_ACK"
  | .checkLength => "CHECK_LENGTH"
  | .verifyChecksum => "VERIFY_CHECKSUM"
  | .compareAck => "COMPARE_ACK"
  | .resync => "RESYNC"
  | .attempt => "ATTEMPT"
  | .sendCommand _ => "SEND_COMMAND"
  | .trigger _ _ => "TRIGGER"
  | .computeDivisor _ => "COMPUTE_DIVISOR"
  | .reconfigure => "RECONFIGURE"
  | .runSequence => "RUN_SEQUENCE"
  | .frameWatchdogKill => "FRAME_WATCHDOG_KILL"
  | .frameShutdownWait => "FRAME_SHUTDOWN_WAIT"
  | .framePowerOff => "FRAME_POWER_OFF"
  | .commandFrame _ => "COMMAND_FRAME"
  | .ackResponse _ _ => "ACK_RESPONSE"
  | .expectedAckRef _ => "EXPECTED_ACK"
  | .resyncPreamble => "RESYNC_PREAMBLE"
  | .reasonShutdown => "REASON_SHUTDOWN"
  | .reasonHalt => "REASON_HALT"

/-- A hexadecimal digit. -/
def hexDigit (n : Nat) : Char :=
  ['0', '1', '2', '3', '4', '5', '6', '7', '8', '9', 'A', 'B', 'C', 'D', 'E', 'F'].getD n '0'

/-- The last `n` hexadecimal digits of a number. -/
def hexDigits : Nat → Nat → List Char
  | 0, _ => []
  | n + 1, v => hexDigits n (v / 16) ++ [hexDigit (v % 16)]

/-- A number as `0x` and `n` hexadecimal digits. -/
def hexText (n v : Nat) : List Char := '0' :: 'x' :: hexDigits n v

/-- A number in decimal. -/
def decText (v : Nat) : List Char := Nat.toDigits 10 v

/-- Pieces with a separator between them. -/
def joined (sep : List Char) : List (List Char) → List Char
  | [] => []
  | [x] => x
  | x :: xs => x ++ sep ++ joined sep xs

/-- A byte list in brackets (30_encoding.md R84). -/
def bytesText (bs : List Byte) : List Char :=
  '[' :: joined [' '] (bs.map (fun b => hexDigits 2 b.toNat)) ++ [']']

/-- A reason (30_encoding.md R84). -/
def reasonText : Reason → List Char
  | .shutdown => "SHUTDOWN".toList
  | .halt => "HALT".toList
  | .other code => "OTHER(".toList ++ decText code ++ [')']

/-- A line register's short name (20_memory.md R51). -/
def regText : LineReg → List Char
  | .data => "DATA".toList
  | .lsr => "LSR".toList
  | .lcr => "LCR".toList
  | .dll => "DLL".toList
  | .dlm => "DLM".toList
  | .ier => "IER".toList
  | .fcr => "FCR".toList
  | .mcr => "MCR".toList

/-- A diagnostic's name (60_exceptions.md R186). -/
def diagText : DiagCode → List Char
  | .rxShort => "RX_SHORT".toList
  | .csumErr => "CSUM_ERR".toList
  | .nak => "NAK".toList
  | .exhausted => "EXHAUSTED".toList

/-- A fault kind's name (60_exceptions.md R187). -/
def faultText : FaultKind → List Char
  | .reentrantTrigger => "F_REENTRANT_TRIGGER".toList
  | .badPayload => "F_BAD_PAYLOAD".toList
  | .unwritten => "F_UNWRITTEN".toList

/-- A call result's name (30_encoding.md R78). -/
def callResultText : CallResult → List Char
  | .notHandled => "NOT_HANDLED".toList
  | .handled => "HANDLED".toList

/-- An event of a trace (30_encoding.md R86). -/
def eventText : Event → List Char
  | .rd r v => joined [' '] ["RD".toList, regText r, hexText 2 v.toNat]
  | .wr r v => joined [' '] ["WR".toList, regText r, hexText 2 v.toNat]
  | .sleep d => joined [' '] ["SLEEP".toList, decText d]
  | .diag c data => joined [' '] ["DIAG".toList, diagText c, bytesText data]
  | .ret r => joined [' '] ["RET".toList, callResultText r]
  | .fault k => joined [' '] ["FAULT".toList, faultText k]
  | .trig r arg => joined [' '] ["TRIG".toList, reasonText r, decText arg.toNat]

/-- A trace as text (30_encoding.md R86). -/
def traceText (es : List Event) : List Char := joined [';', ' '] (es.map eventText)

/-- The operands of an invocation; an item of a wire format has no line of its own (30_encoding.md R84). -/
def operandTexts : Instr → Option (List (List Char))
  | .configure d f => some [hexText 4 d.toNat, hexText 2 f.toNat]
  | .readByte => some []
  | .writeByte b => some [hexText 2 b.toNat]
  | .readBytes m => some [decText m.toNat]
  | .writeBytes bs => some [bytesText bs]
  | .checksum bs => some [bytesText bs]
  | .buildFrame p => some [bytesText p]
  | .expectedAck p => some [bytesText p]
  | .checkLength => some []
  | .verifyChecksum => some []
  | .compareAck => some []
  | .resync => some []
  | .attempt => some []
  | .sendCommand p => some [bytesText p]
  | .trigger r arg => some [reasonText r, decText arg.toNat]
  | .computeDivisor t => some [decText t.toNat]
  | .reconfigure => some []
  | .runSequence => some []
  | .frameWatchdogKill => none
  | .frameShutdownWait => none
  | .framePowerOff => none
  | .commandFrame _ => none
  | .ackResponse _ _ => none
  | .expectedAckRef _ => none
  | .resyncPreamble => none
  | .reasonShutdown => none
  | .reasonHalt => none

/-- The line of an invocation (30_encoding.md R84). -/
def instrText (i : Instr) : Option (List Char) :=
  match operandTexts i with
  | none => none
  | some [] => some (mnemonic i).toList
  | some (x :: xs) => some ((mnemonic i).toList ++ ' ' :: joined [',', ' '] (x :: xs))

/-! ## Reading -/

/-- The tokens of a line. -/
inductive Tok
  | word (cs : List Char)
  | openBracket | closeBracket | openParen | closeParen | comma
  deriving DecidableEq, Repr

/-- A character of a mnemonic or a number. -/
def isWordChar (c : Char) : Bool := c.isAlphanum || decide (c = '_')

/-- A punctuation token. -/
def punctuation (c : Char) : Option Tok :=
  if c = '[' then some .openBracket
  else if c = ']' then some .closeBracket
  else if c = '(' then some .openParen
  else if c = ')' then some .closeParen
  else if c = ',' then some .comma
  else none

/-- Ends the word being read, if there is one. -/
def flushWord (acc : List Char) (ts : List Tok) : List Tok :=
  if acc = [] then ts else .word acc.reverse :: ts

/-- The tokens of a line up to a `;`, with the word being read in reverse (30_encoding.md R84). -/
def lexLine (acc : List Char) : List Char → Option (List Tok)
  | [] => some (flushWord acc [])
  | c :: cs =>
    if c = ';' then some (flushWord acc [])
    else if isWordChar c then lexLine (c :: acc) cs
    else if c = ' ' then (lexLine [] cs).map (flushWord acc)
    else
      match punctuation c with
      | some t => (lexLine [] cs).map (fun ts => flushWord acc (t :: ts))
      | none => none

/-- The value of a digit of a base up to 16. -/
def digitValue (base : Nat) (c : Char) : Option Nat :=
  let v :=
    if '0' ≤ c ∧ c ≤ '9' then c.toNat - 48
    else if 'A' ≤ c ∧ c ≤ 'F' then c.toNat - 55
    else if 'a' ≤ c ∧ c ≤ 'f' then c.toNat - 87
    else 99
  if v < base then some v else none

/-- The value of a run of digits, the first most significant. -/
def digitsValue (base : Nat) (acc : Nat) : List Char → Option Nat
  | [] => some acc
  | c :: cs =>
    match digitValue base c with
    | some d => digitsValue base (acc * base + d) cs
    | none => none

/-- A number, decimal or `0x` hexadecimal (30_encoding.md R84). -/
def parseNumber : List Char → Option Nat
  | [] => none
  | ['0', 'x'] => none
  | '0' :: 'x' :: ds => digitsValue 16 0 ds
  | ds => digitsValue 10 0 ds

/-- A number that fits a width. -/
def parseBounded (width : Nat) (cs : List Char) : Option (BitVec width) :=
  match parseNumber cs with
  | some v => if v < 2 ^ width then some (BitVec.ofNat width v) else none
  | none => none

/-- The bytes after an open bracket, to the close bracket that ends the line (30_encoding.md R84). -/
def parseBytes : List Tok → Option (List Byte)
  | [.closeBracket] => some []
  | .word [h, l] :: ts =>
    match digitsValue 16 0 [h, l] with
    | none => none
    | some v =>
      match parseBytes ts with
      | none => none
      | some bs => some (BitVec.ofNat 8 v :: bs)
  | _ => none

/-- A reason and an argument (30_encoding.md R84). DESIGN CHOICE: `OTHER(1)` and `OTHER(2)` are read as written, though no bytes of
R82 stand for them, so the term is not well-formed (log entry 28). -/
def parseTrigger : List Tok → Option Instr
  | [.word r, .comma, .word arg] =>
    if r = "SHUTDOWN".toList then (parseBounded 32 arg).map (Instr.trigger .shutdown)
    else if r = "HALT".toList then (parseBounded 32 arg).map (Instr.trigger .halt)
    else none
  | [.word r, .openParen, .word v, .closeParen, .comma, .word arg] =>
    if r = "OTHER".toList then
      match parseBounded 8 v with
      | some code => (parseBounded 32 arg).map (Instr.trigger (.other code.toNat))
      | none => none
    else none
  | _ => none

/-- An instruction with a byte list operand. DESIGN CHOICE: a list of more than 255 bytes is read too, though no count byte of R82
stands for it, so the term is not well-formed (log entry 28). -/
def parseList (mk : List Byte → Instr) : List Tok → Option Instr
  | .openBracket :: ts => (parseBytes ts).map mk
  | _ => none

/-- An instruction without operands. -/
def parseNone (i : Instr) : List Tok → Option Instr
  | [] => some i
  | _ => none

/-- The operands of `CONFIGURE`. -/
def parseConfigure : List Tok → Option Instr
  | [.word d, .comma, .word f] =>
    match parseBounded 16 d with
    | some dv => (parseBounded 8 f).map (Instr.configure dv)
    | none => none
  | _ => none

/-- An instruction with one number. -/
def parseOne (width : Nat) (mk : BitVec width → Instr) : List Tok → Option Instr
  | [.word w] => (parseBounded width w).map mk
  | _ => none

/-- The operands after a mnemonic of 30_encoding.md R80. -/
def parseOperands (m : List Char) (ts : List Tok) : Option Instr :=
  if m = "CONFIGURE".toList then parseConfigure ts
  else if m = "READ_BYTE".toList then parseNone .readByte ts
  else if m = "WRITE_BYTE".toList then parseOne 8 .writeByte ts
  else if m = "READ_BYTES".toList then parseOne 8 .readBytes ts
  else if m = "WRITE_BYTES".toList then parseList .writeBytes ts
  else if m = "CHECKSUM".toList then parseList .checksum ts
  else if m = "BUILD_FRAME".toList then parseList .buildFrame ts
  else if m = "EXPECTED_ACK".toList then parseList .expectedAck ts
  else if m = "CHECK_LENGTH".toList then parseNone .checkLength ts
  else if m = "VERIFY_CHECKSUM".toList then parseNone .verifyChecksum ts
  else if m = "COMPARE_ACK".toList then parseNone .compareAck ts
  else if m = "RESYNC".toList then parseNone .resync ts
  else if m = "ATTEMPT".toList then parseNone .attempt ts
  else if m = "SEND_COMMAND".toList then parseList .sendCommand ts
  else if m = "TRIGGER".toList then parseTrigger ts
  else if m = "COMPUTE_DIVISOR".toList then parseOne 32 .computeDivisor ts
  else if m = "RECONFIGURE".toList then parseNone .reconfigure ts
  else if m = "RUN_SEQUENCE".toList then parseNone .runSequence ts
  else none

/-- What a line of a harness program says. -/
inductive LineReading
  | blank
  | invocation (i : Instr)
  | malformed
  deriving DecidableEq, Repr

/-- One line of a harness program (30_encoding.md R84). -/
def parseLine (cs : List Char) : LineReading :=
  match lexLine [] cs with
  | some [] => .blank
  | some (.word m :: ts) =>
    match parseOperands m ts with
    | some i => .invocation i
    | none => .malformed
  | _ => .malformed

end Sys2Proof.Machine
end

