-- ==== Sys2Proof/Machine/BigStep.lean ====
section
/-! DEFINITION. The operations' pseudocode as one big step over a list of line answers: the second form the spec allows
(00_scope.md R16; 43_shutdown_sequencer.md R170), written from the pseudocode of files 41 to 43 and not from the step
table. `none` means that the answers are used up before the operation ends. Claims compare the two forms. -/

namespace Sys2Proof.Machine

/-- `WRITE_BYTE b` (41_byte_transport.md R102): its events and the answers left. -/
def bigWriteByte (p : Params) (b : Byte) : List Word → Option (List Event × List Word)
  | [] => none
  | w :: ws =>
    if holdingEmpty p (busByte w) then some ([.rd .lsr (busByte w), .wr .data b], ws)
    else
      match bigWriteByte p b ws with
      | some (ev, rest) => some (.rd .lsr (busByte w) :: ev, rest)
      | none => none

/-- `WRITE_BYTES s` (41_byte_transport.md R105). -/
def bigWriteBytes (p : Params) : List Byte → List Word → Option (List Event × List Word)
  | [], ws => some ([], ws)
  | b :: bs, ws =>
    match bigWriteByte p b ws with
    | none => none
    | some (ev, rest) =>
      match bigWriteBytes p bs rest with
      | none => none
      | some (ev', rest') => some (ev ++ ev', rest')

/-- `READ_BYTE` with this many polls left (41_byte_transport.md R101): the byte or a timeout, the events, the answers left. -/
def bigReadByte (p : Params) : Nat → List Word → Option (Option Byte × List Event × List Word)
  | 0, ws => some (none, [], ws)
  | _ + 1, [] => none
  | n + 1, w :: ws =>
    if dataReady p (busByte w) then
      match ws with
      | [] => none
      | d :: rest => some (some (busByte d), [.rd .lsr (busByte w), .rd .data (busByte d)], rest)
    else if n = 0 then some (none, [.rd .lsr (busByte w)], ws)
    else
      match bigReadByte p n ws with
      | none => none
      | some (b, ev, rest) => some (b, .rd .lsr (busByte w) :: .sleep p.pollInterval :: ev, rest)

/-- `READ_BYTES max` (41_byte_transport.md R104): the bytes received in order, the events, the answers left. -/
def bigReadBytes (p : Params) : Nat → List Word → Option (List Byte × List Event × List Word)
  | 0, ws => some ([], [], ws)
  | m + 1, ws =>
    match bigReadByte p p.readPollLimit ws with
    | none => none
    | some (none, ev, rest) => some ([], ev, rest)
    | some (some b, ev, rest) =>
      match bigReadBytes p m rest with
      | none => none
      | some (bs, ev', rest') => some (b :: bs, ev ++ ev', rest')

/-- `RESYNC` (42_frame_protocol.md R126): the drained bytes, the events, the answers left. -/
def bigResync (p : Params) (ws : List Word) : Option (List Byte × List Event × List Word) :=
  match bigWriteBytes p (List.replicate p.responseCapacity p.flushByte) ws with
  | none => none
  | some (ev, rest) =>
    match bigReadBytes p p.responseCapacity rest with
    | none => none
    | some (bs, ev', rest') => some (bs, ev ++ .sleep p.flushSettle :: ev', rest')

/-- The tests of a received response in their order (30_encoding.md R72). -/
def judgeBytes (bs ack : List Byte) : AttemptOutcome :=
  if bs.length ≤ 3 then .short
  else if sum8 (bs.take 4) ≠ 0 then .badCsum
  else if bs.take 3 = ack then .acked
  else .nak

/-- `ATTEMPT` (42_frame_protocol.md R127). -/
def bigAttempt (p : Params) (frame ack : List Byte) (ws : List Word) : Option (AttemptOutcome × List Event × List Word) :=
  match bigWriteBytes p frame ws with
  | none => none
  | some (ev1, r1) =>
    match bigReadBytes p p.responseCapacity r1 with
    | none => none
    | some (bs, ev2, r2) =>
      match judgeBytes bs ack with
      | .short =>
        match bigResync p r2 with
        | none => none
        | some (_, ev3, r3) => some (.short, ev1 ++ ev2 ++ .diag .rxShort [BitVec.ofNat 8 bs.length] :: ev3, r3)
      | .badCsum => some (.badCsum, ev1 ++ ev2 ++ [.diag .csumErr (bs.take 4), .diag .nak []], r2)
      | .nak => some (.nak, ev1 ++ ev2 ++ [.diag .nak []], r2)
      | .acked => some (.acked, ev1 ++ ev2, r2)

/-- Up to this many attempts (42_frame_protocol.md R128, step 2): whether one was acknowledged, and how many were made. -/
def bigAttempts (p : Params) (frame ack : List Byte) : Nat → List Word → Option (Bool × Nat × List Event × List Word)
  | 0, ws => some (false, 0, [], ws)
  | n + 1, ws =>
    match bigAttempt p frame ack ws with
    | none => none
    | some (.acked, ev, rest) => some (true, 1, ev, rest)
    | some (_, ev, rest) =>
      match bigAttempts p frame ack n rest with
      | none => none
      | some (ok, made, ev', rest') => some (ok, made + 1, ev ++ ev', rest')

/-- What a command leaves: its result, how many attempts it made, its events, the answers left. -/
structure CommandRun where
  result : CmdResult
  attempts : Nat
  events : List Event
  rest : List Word
  deriving DecidableEq, Repr

/-- `SEND_COMMAND pl` while `cmd_idx = c` (42_frame_protocol.md R128), for a payload in range. -/
def bigSendCommand (p : Params) (c : Command) (pl : List Byte) (ws : List Word) : Option CommandRun :=
  match bigAttempts p (frameOf pl) (ackOf (pl.getD 1 0)) p.retryLimit ws with
  | none => none
  | some (true, n, ev, rest) => some ⟨.ok, n, ev ++ [.sleep p.postCmdDelay], rest⟩
  | some (false, n, ev, rest) =>
    some ⟨.fail, n, ev ++ [.diag .exhausted [BitVec.ofNat 8 c.index], .sleep p.postCmdDelay], rest⟩

/-- `RUN_SEQUENCE` (43_shutdown_sequencer.md R156): the three results, the attempts the last command made, which stay in `attempt`
(10_state.md R24), the events, the answers left. -/
def bigSequence (p : Params) (ws : List Word) : Option (PerCommand CmdResult × Nat × List Event × List Word) :=
  match bigSendCommand p .watchdogKill p.payload.watchdogKill ws with
  | none => none
  | some a =>
    match bigSendCommand p .shutdownWait p.payload.shutdownWait a.rest with
    | none => none
    | some b =>
      match bigSendCommand p .powerOff p.payload.powerOff b.rest with
      | none => none
      | some c => some (⟨a.result, b.result, c.result⟩, c.attempts, a.events ++ b.events ++ c.events, c.rest)

/-- The events of `CONFIGURE d, f` (41_byte_transport.md R100). -/
def configureEvents (p : Params) (d : Half) (f : Byte) : List Event :=
  match p.lineBinding with
  | .banked16550 =>
    [.wr .lcr p.lcrDlabEntry, .wr .dll (lowByte d), .wr .dlm (highByte d), .wr .lcr f, .wr .ier p.ierInit,
      .wr .fcr p.fcrInit, .wr .mcr p.mcrInit]
  | .named =>
    [.wr .lcr f, .wr .dll (lowByte d), .wr .dlm (highByte d), .wr .ier p.ierInit, .wr .fcr p.fcrInit, .wr .mcr p.mcrInit]

/-- An accepted `TRIGGER` (43_shutdown_sequencer.md R150), after its `TRIG` event. -/
def bigTrigger (p : Params) (tickRate : Word) (ws : List Word) :
    Option (PerCommand CmdResult × Nat × List Event × List Word) :=
  match bigSequence p ws with
  | none => none
  | some (r, n, ev, rest) => some (r, n, configureEvents p (divisorOf p tickRate) p.lcrFormat ++ ev ++ [.ret .handled], rest)

end Sys2Proof.Machine
end

