-- ==== Sys2Proof/Safety.lean ====
section
/-! DEFINITION. The terms the claims are stated in: when an invocation may run, what a run reaches, the engine's invariant
over its register ranges and positions (10_state.md R20 to R35), and what the last line access was. -/

namespace Sys2Proof.Machine

/-- A harness invocation has its effect here: `IDLE`, and no fault recorded (30_encoding.md R81; 10_state.md R33). -/
def mayInvoke (s : State) : Prop := s.eng.st = .idle ∧ s.eng.fault = 0#8

/-- Neither the host's port nor an attach has a pending request. -/
def noRequest (s : State) : Prop := s.env.attachReq = none ∧ s.env.port = none

/-- Some number of steps leads from `s` to `t`. -/
def runsTo (s t : State) : Prop := ∃ n, Host.Core.run Sys2Proof.core n s = .next t

/-- The invocation `i` starts from `s` and its run reaches `t`. -/
def completesTo (i : Instr) (s t : State) : Prop := ∃ s1, exec i s = .next s1 ∧ runsTo s1 t

/-- `s` after an invocation that only returns a value. -/
def returned (v : RetVal) (s : State) : State := { s with env := { s.env with ctx := .engine, ret := v } }

/-- `s` after a harness invocation that faults (60_exceptions.md R187). -/
def faulted (k : FaultKind) (s : State) : State :=
  { s with
    eng := { s.eng with fault := k.code }
    env := { s.env with trace := s.env.trace ++ [.fault k], ctx := .engine, ret := .noValue } }

/-- The invocation `i` from `s` ends in the fault `k` (10_state.md R33; 60_exceptions.md R187): the whole next state, but for
what the harness makes of the end (`ctx`, `ret`), which the spec does not say. -/
def endsInFault (i : Instr) (k : FaultKind) (s : State) : Prop :=
  ∃ c r, exec i s = .next { faulted k s with env := { (faulted k s).env with ctx := c, ret := r } }

/-- A parameter set or a base that breaks a constraint 00_scope.md R7 lists. -/
def breaksR7 (p : Params) (base : Nat) : Prop :=
  p.retryLimit < 1 ∨ 15 < p.retryLimit ∨ p.responseCapacity < 4 ∨ 255 < p.responseCapacity ∨ p.readPollLimit < 1 ∨
    base % 4 ≠ 0 ∨ 2 ^ p.addrWidth - 1 < base + p.regStride * 7 + 3 ∨ p.lsrDrBit = p.lsrThreBit ∨ 7 < p.lsrDrBit ∨
    7 < p.lsrThreBit ∨ ∃ c, (p.payload.get c).length < 2 ∨ p.maxPayloadLen < (p.payload.get c).length

/-- `s` after a call that never returns (10_state.md R33). -/
def hung (s : State) : State := { s with env := { s.env with ctx := .stuck, ret := .noValue } }

/-- The outcome is a refusal. -/
def isRefused (o : Host.Outcome State Fault Refusal) : Prop :=
  match o with
  | .refused _ => True
  | _ => False

/-- Every byte of `ack` is written. -/
def ackWritten (e : Engine) : Bool := e.ack.all Option.isSome

/-- The contexts that run whole commands. -/
def Ctx.sendsCommands : Ctx → Bool
  | .engine => true
  | .sendCommand => true
  | .runSequence => true
  | _ => false

/-- What holds while a command's attempt runs (10_state.md R24 to R26): a harness `ATTEMPT` runs over the frame and the
acknowledgement as they stand, a command over those it has built. -/
def inAttempt (s : State) : Bool :=
  match s.env.ctx with
  | .attempt => decide (1 ≤ s.eng.attempt)
  | ctx => ctx.sendsCommands && ackWritten s.eng && decide (1 ≤ s.eng.frameLen) && decide (1 ≤ s.eng.attempt)

/-- The transmitter's position (10_state.md R29). -/
def txPositionOk (s : State) : Bool :=
  match s.env.ctx with
  | .writeByte _ => true
  | .writeBytes bs => decide (s.eng.txi < bs.length) && decide (bs.length ≤ 255)
  | .transmit => decide (s.eng.txi < txLen s)
  | .resync => decide (s.eng.txb = .flush) && decide (s.eng.txi < txLen s)
  | _ => inAttempt s && decide (s.eng.txi < txLen s)

/-- The receiver's position (10_state.md R27, R28). -/
def rxPositionOk (s : State) : Bool :=
  decide (1 ≤ s.eng.k) &&
  match s.env.ctx with
  | .readByte => true
  | .readBytes m => decide (s.eng.rcount < m) && decide (m ≤ s.par.responseCapacity)
  | .response => decide (s.eng.rcount < s.par.responseCapacity)
  | .resync => decide (s.eng.rcount < s.par.responseCapacity)
  | _ => inAttempt s && decide (s.eng.rcount < s.par.responseCapacity)

/-- The configuration's position (10_state.md R22). -/
def cfgPositionOk (s : State) : Bool :=
  decide (s.eng.cfgJ < cfgLen s.par) &&
  match s.env.ctx with
  | .configure _ _ => true
  | .reconfigure => s.eng.divisor.isSome
  | .engine => s.eng.divisor.isSome
  | _ => false

/-- What holds at each micro-state of an engine without a fault: whose pseudocode it can be in, and where its indices
stand. -/
def positionOk (s : State) : Bool :=
  match s.eng.st with
  | .idle => decide (s.env.ctx = .engine)
  | .cfg => cfgPositionOk s
  | .txPoll => txPositionOk s
  | .txWrite => txPositionOk s
  | .rxPoll => rxPositionOk s
  | .rxSleep => rxPositionOk s && decide (s.eng.k < s.par.readPollLimit)
  | .rxData => rxPositionOk s
  | .diagShort => inAttempt s && decide (s.eng.rcount ≤ 3)
  | .settleFlush => decide (s.env.ctx = .resync) || inAttempt s
  | .diagCsum => inAttempt s && decide (4 ≤ s.eng.rcount)
  | .diagNak => inAttempt s && decide (4 ≤ s.eng.rcount)
  | .postOk => s.env.ctx.sendsCommands
  | .diagExh => s.env.ctx.sendsCommands
  | .exhSleep => s.env.ctx.sendsCommands
  | .returning => decide (s.env.ctx = .engine) && decide (s.eng.cmdIdx = .powerOff)
  | .done => decide (s.env.ctx = .engine) && decide (s.eng.cmdIdx = .powerOff)

/-- The engine's invariant: every register is in the range 10_state.md R20 gives it, the buffers hold bytes exactly where
R25 and R27 say, and an engine without a fault is at a position its pseudocode has. -/
structure Inv (s : State) : Prop where
  params : paramsValid s.par s.eng.base = true
  frameSize : s.eng.frame.length = s.par.maxPayloadLen + 1
  ackSize : s.eng.ack.length = 3
  rbufSize : s.eng.rbuf.length = s.par.responseCapacity
  cfgJRange : s.eng.cfgJ ≤ 7
  attemptRange : s.eng.attempt ≤ s.par.retryLimit
  frameLenRange : s.eng.frameLen ≤ s.par.maxPayloadLen + 1
  frameBytes : (s.eng.frame.take s.eng.frameLen).all Option.isSome = true
  rcountRange : s.eng.rcount ≤ s.par.responseCapacity
  rbufBytes : (s.eng.rbuf.take s.eng.rcount).all Option.isSome = true
  rbufRest : (s.eng.rbuf.drop s.eng.rcount).all Option.isNone = true
  kRange : s.eng.k ≤ s.par.readPollLimit
  /-- 0..255, or up to the longest frame where `MAX_PAYLOAD_LEN` makes it longer (10_state.md R20; log entry 13). -/
  txiRange : s.eng.txi ≤ max 255 (s.par.maxPayloadLen + 1)
  faultCode : s.eng.fault = 0#8 ∨ ∃ kind : FaultKind, s.eng.fault = kind.code
  stuckFaulted : s.env.ctx = .stuck → s.eng.fault ≠ 0#8
  position : s.eng.fault = 0#8 → positionOk s = true

/-- The last bus access was a read of `LSR` whose value has the bit `test` looks for. -/
def lastReadLsr (test : Params → Byte → Bool) (s : State) : Prop :=
  ∃ w, s.env.bus.getLast? = some (accessOf s false .lsr w) ∧ test s.par (busByte w) = true

/-- The receive and transmit hazards as the engine stands in them (70_reset_and_hazards.md R210, R211): it is about to
read `DATA` only right after a poll that saw DR, and to write `DATA` only right after a poll that saw THRE. -/
def hazardsRespected (s : State) : Prop :=
  (s.eng.st = .rxData → lastReadLsr dataReady s) ∧ (s.eng.st = .txWrite → lastReadLsr holdingEmpty s)

/-! ## What a run leaves -/

/-- Whether an event is a line read. -/
def Event.isRead : Event → Bool
  | .rd _ _ => true
  | _ => false

/-- What the line device sees of a bus access, and the byte it carries: direction, address, width, byte. -/
def BusAccess.seen (a : BusAccess) : Bool × Nat × Nat × Byte := (a.isWrite, a.addr, a.width, busByte a.word)

/-- The bus accesses that events stand for, in order: one for each `RD` and `WR`, none for any other (20_memory.md R52,
R55 to R57). -/
def eventAccesses (s : State) : List Event → List (Bool × Nat × Nat × Byte)
  | [] => []
  | .rd r v :: es => (false, regAddr s.par s.eng.base r, s.par.busWidth, v) :: eventAccesses s es
  | .wr r v :: es => (true, regAddr s.par s.eng.base r, s.par.busWidth, v) :: eventAccesses s es
  | _ :: es => eventAccesses s es

/-- `t` is `s` after a run with the events `ev` that ends with the registers `e`, the line answers `rest` still to come and
the return value `ret`. The bus accesses added are those the events stand for; nothing else differs. -/
def ranTo (s : State) (e : Engine) (ev : List Event) (rest : List Word) (ret : RetVal) (t : State) : Prop :=
  ∃ added : List BusAccess, added.map BusAccess.seen = eventAccesses s ev ∧
    t = { s with
      eng := e
      env := { s.env with
        trace := s.env.trace ++ ev
        bus := s.env.bus ++ added
        line := rest
        lineReads := s.env.lineReads + ev.countP Event.isRead
        ctx := .engine
        ret := ret } }

/-- `e` differs from `e'` at most in the registers a transmission and a read write (10_state.md R27 to R30, R36). -/
def sameButTransfer (e e' : Engine) : Prop :=
  e = { e' with
    txb := e.txb
    txi := e.txi
    rxp := e.rxp
    rbuf := e.rbuf
    rcount := e.rcount
    k := e.k }

/-- `s` with command `p` started: the frame and the acknowledgement built, the first attempt's first poll next
(42_frame_protocol.md R128; 43_shutdown_sequencer.md R170, `begin_command`). -/
def commandStarted (p : List Byte) (s : State) : State :=
  { s with eng := { s.eng with
      frame := overwriteFrame p s.eng.frame, frameLen := p.length + 1, ack := (ackOf (p.getD 1 0)).map some,
      attempt := 1, txb := .frame, txi := 0, st := .txPoll } }

/-- The registers after the three commands, whatever their results (43_shutdown_sequencer.md R156): the last frame lies
over the first two, and `attempt` holds what the last command left in it. -/
def sequenceDone (p : Params) (results : PerCommand CmdResult) (attempts : Nat) (e : Engine) : Engine :=
  { e with
    cmdIdx := .powerOff
    attempt := attempts
    frame := overwriteFrame p.payload.powerOff
      (overwriteFrame p.payload.shutdownWait (overwriteFrame p.payload.watchdogKill e.frame))
    frameLen := p.payload.powerOff.length + 1
    ack := (ackOf (p.payload.powerOff.getD 1 0)).map some
    cmdResult := results }

/-- An instruction that builds the frame of `p` and sends it, and does nothing more (30_encoding.md R71; log entry 10):
the state it starts in, and what its run leaves. -/
def sendsItsFrame (i : Instr) (p : List Byte) (s : State) : Prop :=
  exec i s = .next { s with
    eng := { s.eng with
      frame := overwriteFrame p s.eng.frame, frameLen := p.length + 1, txb := .frame, txi := 0, st := .txPoll }
    env := { s.env with ctx := .transmit, ret := .noValue } } ∧
  (noRequest s → ∀ ev rest, bigWriteBytes s.par (frameOf p) s.env.line = some (ev, rest) →
    ∃ t, completesTo i s t ∧
      ranTo s { s.eng with
        frame := overwriteFrame p s.eng.frame, frameLen := p.length + 1, txb := .frame, txi := p.length + 1 }
        ev rest .noValue t)

/-- The next step of `s` is the engine's own (43_shutdown_sequencer.md R170). -/
def engineMoves (s : State) : Prop := noRequest s ∧ s.env.ctx ≠ .stuck ∧ engineRunning s = true

/-- `attempt_failed()` (43_shutdown_sequencer.md R170): the next attempt at once, or none after the last. -/
def attemptFailed (s : State) : State :=
  if s.eng.attempt < s.par.retryLimit then
    { s with eng := { s.eng with attempt := s.eng.attempt + 1, txb := .frame, txi := 0, st := .txPoll } }
  else { s with eng := { s.eng with st := .diagExh } }

/-- The micro-state that follows a response read, by the outcome of the tests (42_frame_protocol.md R127; `rx_done` of R170). -/
def afterTests : AttemptOutcome → MicroState
  | .short => .diagShort
  | .badCsum => .diagCsum
  | .nak => .diagNak
  | .acked => .postOk

/-- The buffer of `s` holds exactly the received bytes `bs`, and `ack` the three bytes `want`. -/
def holdsResponse (bs want : List Byte) (s : State) : Prop :=
  s.eng.rcount = bs.length ∧ s.eng.rbuf.take bs.length = bs.map some ∧ want.length = 3 ∧ s.eng.ack = want.map some

/-- A read is at the poll that ends it: DR clear at the last poll allowed (41_byte_transport.md R101). -/
def timesOut (s : State) : Prop :=
  s.eng.st = .rxPoll ∧ dataReady s.par (lineByte s) = false ∧ s.eng.k = s.par.readPollLimit

/-- A read is at the byte that fills the buffer (41_byte_transport.md R104). -/
def fillsBuffer (s : State) : Prop :=
  s.eng.st = .rxData ∧ s.eng.rbuf.length = s.par.responseCapacity ∧ s.eng.rcount + 1 = s.par.responseCapacity

/-- `s` after the `LineRead(DATA)` of `RX_DATA`: the byte is in the buffer (41_byte_transport.md R104). -/
def byteStored (s : State) : State :=
  { lineRead .data s with eng := { s.eng with
      rbuf := s.eng.rbuf.set s.eng.rcount (some (lineByte s)), rcount := s.eng.rcount + 1 } }

/-! ## The line's fairness -/

/-- The bus word the line device answers the read after `i` more reads with (20_memory.md R55). -/
def upcoming (s : State) (i : Nat) : Word :=
  match s.env.line[i]? with
  | some w => w
  | none => Config.lineAnswer (s.env.lineReads + i)

/-- Some poll to come shows THRE = 1: a `WRITE_BYTE` that polls now ends (41_byte_transport.md R103). -/
def showsThre (s : State) : Prop := ∃ i, holdingEmpty s.par (busByte (upcoming s i)) = true

/-- Line-drain fairness, the host's duty of 70_reset_and_hazards.md R204 and the assumption of 41_byte_transport.md R103, as a
condition on the line's answers: in the run from `s`, every `WRITE_BYTE` that polls eventually sees THRE = 1. -/
def lineDrains (s : State) : Prop :=
  ∀ n t, Host.Core.run Sys2Proof.core n s = .next t → engineMoves t → t.eng.st = .txPoll → showsThre t

/-- The engine has come to rest: a fault is recorded, or it is in `IDLE` or `DONE` (43_shutdown_sequencer.md R170). -/
def atRest (s : State) : Prop := s.eng.fault ≠ 0#8 ∨ s.eng.st = .idle ∨ s.eng.st = .done

/-! ## Comparing runs -/

/-- `s` with another record of past events and bus accesses. -/
def withHistory (trace : List Event) (bus : List BusAccess) (s : State) : State :=
  { s with env := { s.env with trace := trace, bus := bus } }

/-- How many diagnostics events hold. -/
def diagCount (ev : List Event) : Nat :=
  ev.countP (fun e => match e with
    | .diag _ _ => true
    | _ => false)

/-- The labels that name no operation (30_encoding.md R83). -/
def unassignedLabel (label : Byte) : Prop :=
  label.toNat = 0 ∨ (6 ≤ label.toNat ∧ label.toNat ≤ 15) ∨ (25 ≤ label.toNat ∧ label.toNat ≤ 31) ∨ 36 ≤ label.toNat

end Sys2Proof.Machine
end

