-- ==== Sys2Proof/Certificates/Slice0/Obligations.lean ====
section
/-! DEFINITION. The statements for the provers. A statement about a harness invocation gives the whole next state, so it is
the instruction's result, its completion and its frame in one; a statement about a run gives the whole state it reaches. -/

open Sys2Proof Sys2Proof.Machine

/-! ## Encodings -/

/-- No bit of an encoding is dropped (30_encoding.md R71 to R75, R82). -/
def Obligations.DecodeOfEncodeReturnsTheInstruction : Prop :=
  ∀ (par : Params) (i : Instr), i.wf par = true → decodeItem par (encode par i) = .ok (i, [])

/-- The invocation encoding, label by label: each operand where 30_encoding.md R82 puts it, whatever follows. -/
def Obligations.InvocationBytesDecodeInOperandOrder : Prop :=
  ∀ rest : List Byte,
    (∀ (d : Half) (f : Byte),
      decodeInvocation (0x01 :: d.setWidth 8 :: (d >>> 8).setWidth 8 :: f :: rest) = .ok (.configure d f, rest)) ∧
    (∀ b : Byte, decodeInvocation (0x03 :: b :: rest) = .ok (.writeByte b, rest)) ∧
    (∀ m : Byte, decodeInvocation (0x04 :: m :: rest) = .ok (.readBytes m, rest)) ∧
    (∀ l : List Byte, l.length ≤ 255 →
      decodeInvocation (0x05 :: BitVec.ofNat 8 l.length :: (l ++ rest)) = .ok (.writeBytes l, rest) ∧
      decodeInvocation (0x10 :: BitVec.ofNat 8 l.length :: (l ++ rest)) = .ok (.checksum l, rest) ∧
      decodeInvocation (0x11 :: BitVec.ofNat 8 l.length :: (l ++ rest)) = .ok (.buildFrame l, rest) ∧
      decodeInvocation (0x12 :: BitVec.ofNat 8 l.length :: (l ++ rest)) = .ok (.expectedAck l, rest) ∧
      decodeInvocation (0x18 :: BitVec.ofNat 8 l.length :: (l ++ rest)) = .ok (.sendCommand l, rest)) ∧
    (∀ arg : Word,
      decodeInvocation (0x20 :: 0x01 :: arg.setWidth 8 :: (arg >>> 8).setWidth 8 :: (arg >>> 16).setWidth 8 ::
        (arg >>> 24).setWidth 8 :: rest) = .ok (.trigger .shutdown arg, rest) ∧
      decodeInvocation (0x20 :: 0x02 :: arg.setWidth 8 :: (arg >>> 8).setWidth 8 :: (arg >>> 16).setWidth 8 ::
        (arg >>> 24).setWidth 8 :: rest) = .ok (.trigger .halt arg, rest) ∧
      (∀ v : Byte, v ≠ 0x01 → v ≠ 0x02 →
        decodeInvocation (0x20 :: v :: arg.setWidth 8 :: (arg >>> 8).setWidth 8 :: (arg >>> 16).setWidth 8 ::
          (arg >>> 24).setWidth 8 :: rest) = .ok (.trigger (.other v.toNat) arg, rest)) ∧
      decodeInvocation (0x21 :: arg.setWidth 8 :: (arg >>> 8).setWidth 8 :: (arg >>> 16).setWidth 8 ::
        (arg >>> 24).setWidth 8 :: rest) = .ok (.computeDivisor arg, rest)) ∧
    decodeInvocation (0x02 :: rest) = .ok (.readByte, rest) ∧
    decodeInvocation (0x13 :: rest) = .ok (.checkLength, rest) ∧
    decodeInvocation (0x14 :: rest) = .ok (.verifyChecksum, rest) ∧
    decodeInvocation (0x15 :: rest) = .ok (.compareAck, rest) ∧
    decodeInvocation (0x16 :: rest) = .ok (.resync, rest) ∧
    decodeInvocation (0x17 :: rest) = .ok (.attempt, rest) ∧
    decodeInvocation (0x22 :: rest) = .ok (.reconfigure, rest) ∧
    decodeInvocation (0x23 :: rest) = .ok (.runSequence, rest)

/-- 30_encoding.md R83: unassigned labels and count bytes that reach past the end are refused, by `step` too; a bad payload
length raises the fault its rule names; a `READ_BYTES` count above `RESPONSE_CAPACITY` is refused. -/
def Obligations.UnassignedLabelsAndBadOperandsAreStopped : Prop :=
  (∀ (label : Byte) (bs : List Byte), unassignedLabel label →
    decodeInvocation (label :: bs) = .error (.unassignedLabel label)) ∧
  (∀ (s : State) (item : ProgItem) (rest : List ProgItem) (e : DecodeError), noRequest s → s.env.ctx ≠ .stuck →
    engineRunning s = false → s.env.program = item :: rest → decodeItem s.par item = .error e →
    step s = .refused (.undecodable e)) ∧
  (∀ (label n : Byte) (bs : List Byte), label ∈ [0x05, 0x10, 0x11, 0x12, 0x18] → bs.length < n.toNat →
    decodeInvocation (label :: n :: bs) = .error (.truncated label)) ∧
  (∀ (s : State) (p : List Byte), mayInvoke s → s.par.maxPayloadLen < p.length →
    endsInFault (.buildFrame p) .badPayload s ∧
    endsInFault (.expectedAck p) .badPayload s ∧
    endsInFault (.sendCommand p) .badPayload s) ∧
  (∀ (s : State) (p : List Byte), mayInvoke s → p.length < 2 →
    endsInFault (.expectedAck p) .badPayload s ∧
    endsInFault (.sendCommand p) .badPayload s) ∧
  (∀ (s : State) (m : Byte), s.eng.st = .idle → s.par.responseCapacity < m.toNat →
    exec (.readBytes m) s = .refused .countAboveCapacity)

/-- Which wire items decode, for an engine with any parameters: a frame is any bytes that sum to 0 (30_encoding.md R71), and the
frames of the `PAYLOAD` parameters are the fixed commands' (R75); a response is what the engine's tests accept for some payload
(R72); a reference is `01 a 00` (R73); the preamble is `RESPONSE_CAPACITY` copies of `FLUSH_BYTE` (R74). Which row a frame of two
equal `PAYLOAD` parameters is, is the model's choice (log entry 33). -/
def Obligations.WireItemsDecodeExactlyWhenWellFramed : Prop :=
  ∀ par : Params,
    (∀ bs : List Byte, (∃ i, decodeItem par ⟨.commandFrame, bs⟩ = .ok (i, [])) ↔ bs ≠ [] ∧ sum8 bs = 0) ∧
    (∀ (bs : List Byte) (i : Instr), decodeItem par ⟨.commandFrame, bs⟩ = .ok (i, []) →
      (i = .frameWatchdogKill ∧ bs = par.payload.watchdogKill ++ [checksumOf par.payload.watchdogKill]) ∨
      (i = .frameShutdownWait ∧ bs = par.payload.shutdownWait ++ [checksumOf par.payload.shutdownWait]) ∨
      (i = .framePowerOff ∧ bs = par.payload.powerOff ++ [checksumOf par.payload.powerOff]) ∨
      (∃ p, i = .commandFrame p ∧ bs = p ++ [checksumOf p] ∧ ∀ c, p ≠ par.payload.get c)) ∧
    (∀ (bs : List Byte) (i : Instr), decodeItem par ⟨.response, bs⟩ = .ok (i, []) ↔
      ∃ a c tail, bs = 0x01 :: a :: 0x00 :: c :: tail ∧ sum8 [0x01, a, 0x00, c] = 0 ∧ i = .ackResponse a tail) ∧
    (∀ (bs : List Byte) (i : Instr), decodeItem par ⟨.reference, bs⟩ = .ok (i, []) ↔
      ∃ a, bs = [0x01, a, 0x00] ∧ i = .expectedAckRef a) ∧
    (∀ (bs : List Byte) (i : Instr), decodeItem par ⟨.preamble, bs⟩ = .ok (i, []) ↔
      bs = List.replicate par.responseCapacity par.flushByte ∧ bs ≠ [] ∧ i = .resyncPreamble)

/-- A few words written out from the spec: the frames of 30_encoding.md R75, with the payloads it has them for as a premise, and
invocations of 95_test_vectors.md. -/
def Obligations.WordsOfTheSpecDecode : Prop :=
  (∀ par : Params, par.payload = ⟨[0x01, 0x35, 0x00], [0x00, 0x0C], [0x00, 0x06]⟩ →
    decodeItem par ⟨.commandFrame, [0x01, 0x35, 0x00, 0xCA]⟩ = .ok (.frameWatchdogKill, []) ∧
    decodeItem par ⟨.commandFrame, [0x00, 0x0C, 0xF4]⟩ = .ok (.frameShutdownWait, []) ∧
    decodeItem par ⟨.commandFrame, [0x00, 0x06, 0xFA]⟩ = .ok (.framePowerOff, [])) ∧
  (∀ par : Params,
    decodeItem par ⟨.response, [0x01, 0x0C, 0x00, 0xF3]⟩ = .ok (.ackResponse 0x0C [], []) ∧
    decodeItem par ⟨.invocation, [0x01, 0x62, 0x00, 0x1B]⟩ = .ok (.configure 0x0062 0x1B, []) ∧
    decodeItem par ⟨.invocation, [0x18, 0x02, 0x00, 0x0C]⟩ = .ok (.sendCommand [0x00, 0x0C], []) ∧
    decodeItem par ⟨.invocation, [0x20, 0x02, 0x00, 0x00, 0x00, 0x00]⟩ = .ok (.trigger .halt 0, []))

/-- The textual syntax, on the four lines 30_encoding.md R84 gives as examples, and events as R86 writes them. -/
def Obligations.ExampleLinesReadAndEventsWrite : Prop :=
  parseLine "SEND_COMMAND [00 0C]".toList = .invocation (.sendCommand [0x00, 0x0C]) ∧
  parseLine "TRIGGER HALT, 0".toList = .invocation (.trigger .halt 0) ∧
  parseLine "CONFIGURE 0x0062, 0x1B".toList = .invocation (.configure 0x0062 0x1B) ∧
  parseLine "READ_BYTES 40 ; a comment".toList = .invocation (.readBytes 40) ∧
  eventText (.rd .lsr 0x21) = "RD LSR 0x21".toList ∧
  eventText (.diag .rxShort [0x00]) = "DIAG RX_SHORT [00]".toList ∧
  eventText (.fault .badPayload) = "FAULT F_BAD_PAYLOAD".toList ∧
  eventText (.trig .halt 0) = "TRIG HALT 0".toList

/-! ## One step of the machine -/

/-- A step runs the decoded instruction, past its bytes (30_encoding.md R81, R82); that bytes left over are read as the next
invocation is the model's choice (log entry 36). -/
def Obligations.StepRunsTheDecodedInstruction : Prop :=
  ∀ (s : State) (item : ProgItem) (rest : List ProgItem) (i : Instr) (left : List Byte),
    noRequest s → s.env.ctx ≠ .stuck → engineRunning s = false → s.env.program = item :: rest →
    decodeItem s.par item = .ok (i, left) →
    step s = exec i { s with env := { s.env with
      program := if left = [] then rest else { item with bytes := left } :: rest } }

/-- What a step does before it looks at the program: a pending attach first, then the host's pending call, then nothing
while a call never returns, then the engine's own step; with the program at its end, nothing. The order is the model's choice
(log entry 21), and so is that a machine with nothing to do steps to itself (log entry 18). -/
def Obligations.StepServesRequestsBeforeTheProgram : Prop :=
  (∀ (s : State) (a : AttachInput), s.env.attachReq = some a → step s = attach a s) ∧
  (∀ (s : State) (c : HostCall), s.env.attachReq = none → s.env.port = some c →
    step s = exec (.trigger (hostReason s.par c.code) c.arg) { s with env := { s.env with port := none } }) ∧
  (∀ s : State, noRequest s → s.env.ctx = .stuck → step s = .next s) ∧
  (∀ s : State, engineMoves s → step s = microStep s) ∧
  (∀ s : State, noRequest s → s.env.ctx ≠ .stuck → engineRunning s = false → s.env.program = [] → step s = .next s)

/-- Each engine step records exactly one event, that of its micro-state's primitive, or the one fault event in its place;
the codes of the micro-states (10_state.md R21). -/
def Obligations.EachMicroStatePerformsItsOwnPrimitive : Prop :=
  (∀ s t : State, engineMoves s → step s = .next t →
    ∃ e, t.env.trace = s.env.trace ++ [e] ∧
      ((t.eng.fault ≠ 0#8 ∧ ∃ k, e = .fault k) ∨
       (t.eng.fault = 0#8 ∧
        match s.eng.st with
        | .idle => False
        | .cfg => ∃ r v, (cfgSeq s.par (cfgOperands s).1 (cfgOperands s).2)[s.eng.cfgJ]? = some (r, some v) ∧ e = .wr r v
        | .txPoll => e = .rd .lsr (lineByte s)
        | .txWrite => ∃ b, txByte s = .ok b ∧ e = .wr .data b
        | .rxPoll => e = .rd .lsr (lineByte s)
        | .rxSleep => e = .sleep s.par.pollInterval
        | .rxData => e = .rd .data (lineByte s)
        | .diagShort => e = .diag .rxShort [BitVec.ofNat 8 s.eng.rcount]
        | .settleFlush => e = .sleep s.par.flushSettle
        | .diagCsum => ∃ bs, s.eng.rbuf.take 4 = bs.map some ∧ bs.length = 4 ∧ e = .diag .csumErr bs
        | .diagNak => e = .diag .nak []
        | .postOk => e = .sleep s.par.postCmdDelay
        | .diagExh => e = .diag .exhausted [BitVec.ofNat 8 s.eng.cmdIdx.index]
        | .exhSleep => e = .sleep s.par.postCmdDelay
        | .returning => e = .ret .handled
        | .done => False))) ∧
  [MicroState.idle, .cfg, .txPoll, .txWrite, .rxPoll, .rxSleep, .rxData, .diagShort, .settleFlush, .diagCsum, .diagNak,
    .postOk, .diagExh, .exhSleep, .returning, .done].map MicroState.code = List.range 16

/-- The access table of 10_state.md R36, for an engine step: a register changes only in the rows that write it. -/
def Obligations.EngineStepsWriteOnlyTheirOwnRegisters : Prop :=
  ∀ s t : State, engineMoves s → step s = .next t →
    t.par = s.par ∧ t.eng.base = s.eng.base ∧ t.eng.tickRate = s.eng.tickRate ∧ t.eng.divisor = s.eng.divisor ∧
    t.env.program = s.env.program ∧ t.env.hostCalls = s.env.hostCalls ∧
    (t.eng.cfgJ ≠ s.eng.cfgJ → s.eng.st = .cfg ∧ t.eng.cfgJ = s.eng.cfgJ + 1) ∧
    (t.eng.cfgFormat ≠ s.eng.cfgFormat ∨ t.eng.cfgDivisor ≠ s.eng.cfgDivisor →
      s.eng.st = .cfg ∧ s.eng.cfgJ + 1 = cfgLen s.par) ∧
    (t.eng.frame ≠ s.eng.frame ∨ t.eng.frameLen ≠ s.eng.frameLen ∨ t.eng.ack ≠ s.eng.ack ∨ t.eng.cmdIdx ≠ s.eng.cmdIdx →
      s.eng.st = .cfg ∨ s.eng.st = .postOk ∨ s.eng.st = .exhSleep) ∧
    (t.eng.attempt ≠ s.eng.attempt → t.eng.st = .txPoll ∧ t.eng.txb = .frame ∧ t.eng.txi = 0) ∧
    (t.eng.rbuf ≠ s.eng.rbuf ∨ t.eng.rcount ≠ s.eng.rcount →
      s.eng.st = .rxData ∨ (t.eng.st = .rxPoll ∧ t.eng.rcount = 0 ∧ t.eng.rbuf = List.replicate s.par.responseCapacity none)) ∧
    (t.eng.rxp ≠ s.eng.rxp → t.eng.st = .rxPoll) ∧
    (t.eng.txb ≠ s.eng.txb → t.eng.st = .txPoll ∧ t.eng.txi = 0) ∧
    (t.eng.txi ≠ s.eng.txi → t.eng.txi = 0 ∨ (s.eng.st = .txWrite ∧ t.eng.txi = s.eng.txi + 1)) ∧
    (t.eng.cmdResult ≠ s.eng.cmdResult → s.eng.st = .postOk ∨ s.eng.st = .exhSleep) ∧
    (t.eng.fault ≠ s.eng.fault → t = raiseFault .unwritten s ∨ t = raiseFault .badPayload s)

/-- The configuration writes are made back to back (41_byte_transport.md R100; 70_reset_and_hazards.md R212): until the last,
each is followed by the next, and the last records the configuration; under `BANKED_16550` the first write is
`LCR_DLAB_ENTRY` and the fourth the format, which open and close the divisor latch where their bits 7 are 1 and 0; that other values
are written as given is the model's choice (log entry 35). -/
def Obligations.ConfigurationWritesAreBackToBack : Prop :=
  (∀ s t : State, engineMoves s → s.eng.st = .cfg → step s = .next t → t.eng.fault = 0#8 →
    t.eng.cfgJ = s.eng.cfgJ + 1 ∧
    (s.eng.cfgJ + 1 < cfgLen s.par → t.eng.st = .cfg ∧ t.env.ctx = s.env.ctx ∧
      t.eng.cfgFormat = s.eng.cfgFormat ∧ t.eng.cfgDivisor = s.eng.cfgDivisor) ∧
    (s.eng.cfgJ + 1 = cfgLen s.par → t.eng.st ≠ .cfg ∧
      t.eng.cfgFormat = some (cfgOperands s).2 ∧ t.eng.cfgDivisor = (cfgOperands s).1)) ∧
  (∀ (p : Params) (d : Half) (f : Byte), cfgSeq p (some d) f =
    if p.lineBinding = .banked16550 then
      [(.lcr, some p.lcrDlabEntry), (.dll, some (d.setWidth 8)), (.dlm, some ((d >>> 8).setWidth 8)), (.lcr, some f),
        (.ier, some p.ierInit), (.fcr, some p.fcrInit), (.mcr, some p.mcrInit)]
    else
      [(.lcr, some f), (.dll, some (d.setWidth 8)), (.dlm, some ((d >>> 8).setWidth 8)),
        (.ier, some p.ierInit), (.fcr, some p.fcrInit), (.mcr, some p.mcrInit)])

/-- From `IDLE`, with no harness program, the engine leaves only on a host call with an accepted reason or an attach
(10_state.md R37; 70_reset_and_hazards.md R201). -/
def Obligations.IdleWaitsForAnAcceptedCall : Prop :=
  ∀ s t : State, s.eng.st = .idle → s.env.program = [] → s.env.attachReq = none → step s = .next t → t.eng ≠ s.eng →
    s.eng.fault = 0#8 ∧ t.eng.st = .cfg ∧
    ∃ c, s.env.port = some c ∧ (c.code = s.par.reasonCodeShutdown ∨ c.code = s.par.reasonCodeHalt)

/-- The poll counter (10_state.md R28): 1 at a first poll, one more after each sleep; at the limit a poll that sees DR clear
ends the byte read. -/
def Obligations.PollCounterCountsStatusPolls : Prop :=
  ∀ s t : State, engineMoves s → step s = .next t → t.eng.fault = 0#8 →
    (t.eng.st = .rxPoll → s.eng.st ≠ .rxSleep → t.eng.k = 1) ∧
    (s.eng.st = .rxSleep →
      t.eng.st = .rxPoll ∧ t.eng.k = s.eng.k + 1 ∧ t.env.trace = s.env.trace ++ [.sleep s.par.pollInterval]) ∧
    (t.eng.st ≠ .rxPoll → t.eng.k = s.eng.k) ∧
    (s.eng.st = .rxPoll → dataReady s.par (lineByte s) = true → t.eng.st = .rxData) ∧
    (s.eng.st = .rxPoll → dataReady s.par (lineByte s) = false → s.eng.k ≠ s.par.readPollLimit → t.eng.st = .rxSleep) ∧
    (s.eng.st = .rxPoll → dataReady s.par (lineByte s) = false → s.eng.k = s.par.readPollLimit →
      t.eng.st ≠ .rxSleep ∧ t.eng.st ≠ .rxData ∧ t.eng.rbuf = s.eng.rbuf ∧ t.eng.rcount = s.eng.rcount)

/-! ## The Byte Transport -/

/-- `CONFIGURE` (41_byte_transport.md R100): the state it starts in, and the whole state its run leaves: the writes of the
configured binding in their order, and the operands recorded. -/
def Obligations.ConfigureWritesItsSequence : Prop :=
  ∀ (s : State) (d : Half) (f : Byte), mayInvoke s →
    exec (.configure d f) s = .next { s with
      eng := { s.eng with cfgJ := 0, st := .cfg }
      env := { s.env with ctx := .configure d f, ret := .noValue } } ∧
    (noRequest s → ∃ t, completesTo (.configure d f) s t ∧
      ranTo s { s.eng with cfgJ := cfgLen s.par, cfgDivisor := some d, cfgFormat := some f }
        (configureEvents s.par d f) s.env.line .noValue t)

/-- `RECONFIGURE` (43_shutdown_sequencer.md R155): the divisor of the tick rate, then the configuration with it. -/
def Obligations.ReconfigureUsesTheTickRate : Prop :=
  ∀ s : State, mayInvoke s →
    exec .reconfigure s = .next { s with
      eng := { s.eng with divisor := some (divisorOf s.par s.eng.tickRate), cfgJ := 0, st := .cfg }
      env := { s.env with ctx := .reconfigure, ret := .noValue } } ∧
    (noRequest s → ∃ t, completesTo .reconfigure s t ∧
      ranTo s { s.eng with
        divisor := some (divisorOf s.par s.eng.tickRate)
        cfgJ := cfgLen s.par
        cfgDivisor := some (divisorOf s.par s.eng.tickRate)
        cfgFormat := some s.par.lcrFormat }
        (configureEvents s.par (divisorOf s.par s.eng.tickRate) s.par.lcrFormat) s.env.line .noValue t)

/-- `READ_BYTE` (41_byte_transport.md R101): the first poll at once, and a run that is the rule's pseudocode. That a harness
`READ_BYTE` leaves `rbuf`, `rcount` and `rxp` is log entry 19. -/
def Obligations.ReadByteRunsItsPseudocode : Prop :=
  ∀ s : State, mayInvoke s →
    exec .readByte s = .next { s with
      eng := { s.eng with k := 1, st := .rxPoll }
      env := { s.env with ctx := .readByte, ret := .noValue } } ∧
    (noRequest s → 1 ≤ s.par.readPollLimit → ∀ b ev rest,
      bigReadByte s.par s.par.readPollLimit s.env.line = some (b, ev, rest) →
      ∃ k t, completesTo .readByte s t ∧ 1 ≤ k ∧ k ≤ s.par.readPollLimit ∧
        ranTo s { s.eng with k := k } ev rest (.received b) t)

/-- The corner cases of 41_byte_transport.md R101, counted in the events of a run: a timeout makes `READ_POLL_LIMIT` reads
of `LSR` with a sleep between two of them; a byte found at poll `j` makes `j` reads of `LSR`, `j - 1` sleeps and one read of
`DATA`. -/
def Obligations.ReadBytePollsAndSleepsAreCounted : Prop :=
  ∀ (p : Params) (n : Nat) (ws rest : List Word) (b : Option Byte) (ev : List Event), 1 ≤ n →
    bigReadByte p n ws = some (b, ev, rest) →
    ∃ polls : List Byte, 1 ≤ polls.length ∧ polls.length ≤ n ∧
      (b = none → polls.length = n) ∧
      ev = (polls.map (fun v => Event.rd .lsr v)).intersperse (.sleep p.pollInterval) ++
        (match b with
        | none => []
        | some x => [.rd .data x])

/-- `WRITE_BYTE` (41_byte_transport.md R102): polls until THRE, then the write; no register of its own (that a harness
`WRITE_BYTE` leaves `txb` and `txi` is log entry 19). -/
def Obligations.WriteByteRunsItsPseudocode : Prop :=
  ∀ (s : State) (b : Byte), mayInvoke s →
    exec (.writeByte b) s = .next { s with
      eng := { s.eng with st := .txPoll }
      env := { s.env with ctx := .writeByte b, ret := .noValue } } ∧
    (noRequest s → ∀ ev rest, bigWriteByte s.par b s.env.line = some (ev, rest) →
      ∃ t, completesTo (.writeByte b) s t ∧ ranTo s s.eng ev rest .noValue t)

/-- `READ_BYTES` (41_byte_transport.md R104): a fresh buffer, then bytes up to the count or to the first gap. That a harness
`READ_BYTES` leaves `rxp` is log entry 19. -/
def Obligations.ReadBytesFillsAFreshBuffer : Prop :=
  ∀ (s : State) (m : Byte), mayInvoke s → m.toNat ≤ s.par.responseCapacity →
    (m = 0 → exec (.readBytes m) s = .next (returned (.response (List.replicate s.par.responseCapacity none) 0)
      { s with eng := { s.eng with rbuf := List.replicate s.par.responseCapacity none, rcount := 0 } })) ∧
    (m ≠ 0 → exec (.readBytes m) s = .next { s with
      eng := { s.eng with rbuf := List.replicate s.par.responseCapacity none, rcount := 0, k := 1, st := .rxPoll }
      env := { s.env with ctx := .readBytes m.toNat, ret := .noValue } }) ∧
    (noRequest s → 1 ≤ s.par.readPollLimit → ∀ bs ev rest,
      bigReadBytes s.par m.toNat s.env.line = some (bs, ev, rest) →
      ∃ k t, completesTo (.readBytes m) s t ∧
        ranTo s { s.eng with
          rbuf := bs.map some ++ List.replicate (s.par.responseCapacity - bs.length) none, rcount := bs.length, k := k }
          ev rest (.response (bs.map some ++ List.replicate (s.par.responseCapacity - bs.length) none) bs.length) t)

/-- `WRITE_BYTES` (41_byte_transport.md R105): each byte in order, after its own poll; an empty sequence makes no access. R105
lists `txb` among the registers written and its pseudocode does not write it: that a harness `WRITE_BYTES` leaves `txb` as it
was is the model's reading (log entry 19). -/
def Obligations.WriteBytesSendsInOrder : Prop :=
  ∀ (s : State) (bs : List Byte), mayInvoke s →
    (bs = [] → exec (.writeBytes bs) s = .next (returned .noValue { s with eng := { s.eng with txi := 0 } })) ∧
    (bs ≠ [] → exec (.writeBytes bs) s = .next { s with
      eng := { s.eng with txi := 0, st := .txPoll }
      env := { s.env with ctx := .writeBytes bs, ret := .noValue } }) ∧
    (noRequest s → ∀ ev rest, bigWriteBytes s.par bs s.env.line = some (ev, rest) →
      ∃ t, completesTo (.writeBytes bs) s t ∧ ranTo s { s.eng with txi := bs.length } ev rest .noValue t)

/-! ## The Frame Protocol -/

/-- `CHECKSUM` (42_frame_protocol.md R120), with its encoding and its corner cases. -/
def Obligations.ChecksumCompletesTheSumToZero : Prop :=
  (∀ (par : Params) (bs : List Byte), (encode par (.checksum bs)).bytes = 0x10 :: BitVec.ofNat 8 bs.length :: bs) ∧
  (∀ (s : State) (bs : List Byte), mayInvoke s →
    exec (.checksum bs) s = .next (returned (.byte (checksumOf bs)) s)) ∧
  (∀ bs : List Byte, (checksumOf bs).toNat = (256 - (bs.map BitVec.toNat).sum % 256) % 256) ∧
  (∀ bs : List Byte, sum8 (bs ++ [checksumOf bs]) = 0) ∧
  (∀ bs : List Byte, (bs.map BitVec.toNat).sum % 256 = 0 → checksumOf bs = 0) ∧
  checksumOf [] = 0 ∧ checksumOf [0x01, 0x35, 0x00] = 0xCA

/-- `BUILD_FRAME` (42_frame_protocol.md R121), with its encoding, its fault and its corner cases. -/
def Obligations.BuildFrameFillsTheFrame : Prop :=
  (∀ (par : Params) (p : List Byte), (encode par (.buildFrame p)).bytes = 0x11 :: BitVec.ofNat 8 p.length :: p) ∧
  (∀ (s : State) (p : List Byte), mayInvoke s → p.length ≤ s.par.maxPayloadLen →
    exec (.buildFrame p) s = .next (returned .noValue { s with eng := { s.eng with
      frame := (p ++ [checksumOf p]).map some ++ s.eng.frame.drop (p.length + 1), frameLen := p.length + 1 } })) ∧
  (∀ (s : State) (p : List Byte), mayInvoke s → s.par.maxPayloadLen < p.length →
    endsInFault (.buildFrame p) .badPayload s) ∧
  (∀ (s t : State) (p : List Byte), mayInvoke s → p.length ≤ s.par.maxPayloadLen → exec (.buildFrame p) s = .next t →
    ∃ bs : List Byte, t.eng.frame.take (t.eng.frameLen - 1) = bs.map some ∧
      t.eng.frame[t.eng.frameLen - 1]? = some (some (checksumOf bs)))

/-- `EXPECTED_ACK` (42_frame_protocol.md R122), with its encoding, its fault and its corner case. -/
def Obligations.ExpectedAckTakesTheSecondByte : Prop :=
  (∀ (par : Params) (p : List Byte), (encode par (.expectedAck p)).bytes = 0x12 :: BitVec.ofNat 8 p.length :: p) ∧
  (∀ (s : State) (b0 b1 : Byte) (rest : List Byte), mayInvoke s → rest.length + 2 ≤ s.par.maxPayloadLen →
    exec (.expectedAck (b0 :: b1 :: rest)) s = .next (returned .noValue
      { s with eng := { s.eng with ack := [some 0x01, some b1, some 0x00] } })) ∧
  (∀ (s : State) (p : List Byte), mayInvoke s → p.length < 2 ∨ s.par.maxPayloadLen < p.length →
    endsInFault (.expectedAck p) .badPayload s)

/-- `CHECK_LENGTH` (42_frame_protocol.md R123): 3 is short and 4 is long; no register, no event. -/
def Obligations.CheckLengthTestsTheThreshold : Prop :=
  (∀ par : Params, (encode par .checkLength).bytes = [0x13]) ∧
  (∀ s : State, mayInvoke s → s.eng.rcount ≤ 3 → exec .checkLength s = .next (returned (.length true) s)) ∧
  (∀ s : State, mayInvoke s → 4 ≤ s.eng.rcount → exec .checkLength s = .next (returned (.length false) s))

/-- `VERIFY_CHECKSUM` (42_frame_protocol.md R124): the first four bytes and no others; a `⊥` byte among them faults, and under
the engine's invariant that cannot happen once four bytes have been received. -/
def Obligations.VerifyChecksumTestsFourBytes : Prop :=
  (∀ par : Params, (encode par .verifyChecksum).bytes = [0x14]) ∧
  (∀ (s : State) (b0 b1 b2 b3 : Byte) (rest : List (Option Byte)), mayInvoke s →
    s.eng.rbuf = some b0 :: some b1 :: some b2 :: some b3 :: rest →
    exec .verifyChecksum s = .next (returned
      (.test (decide ((b0.toNat + b1.toNat + b2.toNat + b3.toNat) % 256 = 0))) s)) ∧
  (∀ s : State, mayInvoke s → none ∈ s.eng.rbuf.take 4 → endsInFault .verifyChecksum .unwritten s) ∧
  (∀ s : State, Inv s → 4 ≤ s.eng.rcount → none ∉ s.eng.rbuf.take 4)

/-- `COMPARE_ACK` (42_frame_protocol.md R125): the first three bytes against `ack`, exactly; a `⊥` byte faults (log entry 17
says that all six are read). -/
def Obligations.CompareAckComparesThreeBytes : Prop :=
  (∀ par : Params, (encode par .compareAck).bytes = [0x15]) ∧
  (∀ (s : State) (b0 b1 b2 a0 a1 a2 : Byte) (rest : List (Option Byte)), mayInvoke s →
    s.eng.rbuf = some b0 :: some b1 :: some b2 :: rest → s.eng.ack = [some a0, some a1, some a2] →
    exec .compareAck s = .next (returned (.test (decide (b0 = a0 ∧ b1 = a1 ∧ b2 = a2))) s)) ∧
  (∀ s : State, mayInvoke s → none ∈ s.eng.rbuf.take 3 ∨ none ∈ s.eng.ack.take 3 →
    endsInFault .compareAck .unwritten s)

/-- `RESYNC` (42_frame_protocol.md R126): preamble, settle delay, drain read, whatever the drain returns. -/
def Obligations.ResyncFlushesAndDrains : Prop :=
  ∀ s : State, mayInvoke s →
    exec .resync s = .next { s with
      eng := { s.eng with txb := .flush, txi := 0, st := .txPoll }
      env := { s.env with ctx := .resync, ret := .noValue } } ∧
    (noRequest s → 1 ≤ s.par.responseCapacity → 1 ≤ s.par.readPollLimit → ∀ bs ev rest,
      bigResync s.par s.env.line = some (bs, ev, rest) →
      ∃ k t, completesTo .resync s t ∧
        ranTo s { s.eng with
          txb := .flush
          txi := s.par.responseCapacity
          rxp := .drain
          rbuf := bs.map some ++ List.replicate (s.par.responseCapacity - bs.length) none
          rcount := bs.length
          k := k } ev rest .noValue t)

/-- `ATTEMPT` (42_frame_protocol.md R127): refused at the limit; otherwise a run that is the rule's pseudocode, over the
frame and the acknowledgement as they stand. How a harness `ATTEMPT` tells its two failed outcomes apart is log entry 20. -/
def Obligations.AttemptRunsItsPseudocode : Prop :=
  (∀ s : State, s.eng.st = .idle → s.par.retryLimit ≤ s.eng.attempt → exec .attempt s = .refused .attemptsUsedUp) ∧
  (∀ s : State, mayInvoke s → s.eng.attempt < s.par.retryLimit → s.eng.frameLen ≠ 0 →
    exec .attempt s = .next { s with
      eng := { s.eng with attempt := s.eng.attempt + 1, txb := .frame, txi := 0, st := .txPoll }
      env := { s.env with ctx := .attempt, ret := .noValue } }) ∧
  (∀ (s : State) (frame ack : List Byte) (o : AttemptOutcome) (ev : List Event) (rest : List Word),
    mayInvoke s → noRequest s → Inv s → s.eng.attempt < s.par.retryLimit →
    s.eng.frame.take s.eng.frameLen = frame.map some → s.eng.ack = ack.map some →
    bigAttempt s.par frame ack s.env.line = some (o, ev, rest) →
    ∃ e t, completesTo .attempt s t ∧ sameButTransfer e { s.eng with attempt := s.eng.attempt + 1 } ∧
      ranTo s e ev rest (.attempt o) t)

/-- `SEND_COMMAND` (42_frame_protocol.md R128): the state it starts in, and a run that is the rule's pseudocode: its result,
the attempts it made, its events. `cmd_result` is not written. -/
def Obligations.SendCommandRunsItsPseudocode : Prop :=
  ∀ (s : State) (p : List Byte), mayInvoke s → 2 ≤ p.length → p.length ≤ s.par.maxPayloadLen →
    exec (.sendCommand p) s = .next { commandStarted p s with
      env := { s.env with ctx := .sendCommand, ret := .noValue } } ∧
    (noRequest s → Inv s → ∀ r, bigSendCommand s.par s.eng.cmdIdx p s.env.line = some r →
      ∃ e t, completesTo (.sendCommand p) s t ∧
        sameButTransfer e { s.eng with
          frame := overwriteFrame p s.eng.frame
          frameLen := p.length + 1
          ack := (ackOf (p.getD 1 0)).map some
          attempt := r.attempts } ∧
        ranTo s e r.events r.rest (.command r.result) t)

/-- How many attempts a command makes (42_frame_protocol.md R128): from 1 to `RETRY_LIMIT`, all of them where it fails. -/
def Obligations.AttemptsAreBoundedByTheRetryLimit : Prop :=
  ∀ (p : Params) (c : Command) (pl : List Byte) (ws : List Word) (r : CommandRun), 1 ≤ p.retryLimit →
    bigSendCommand p c pl ws = some r →
    1 ≤ r.attempts ∧ r.attempts ≤ p.retryLimit ∧ (r.result = .ok ∨ (r.result = .fail ∧ r.attempts = p.retryLimit)) ∧
    diagCount r.events ≤ 2 * p.retryLimit + 1

/-- The two recovery paths (42_frame_protocol.md R129), step by step, in a command. The end of a response read goes where the
tests send it, whether a timeout or a full buffer ends it. Only a short response is flushed: flush, settle and drain come
before the next attempt, and the drain's bytes are not tested; after a bad checksum or a wrong acknowledgement the next attempt
follows at once. The last attempt is followed by none. -/
def Obligations.OnlyShortResponsesAreFlushed : Prop :=
  (∀ (s : State) (bs want : List Byte), engineMoves s → s.env.ctx.sendsCommands = true → holdsResponse bs want s →
    s.eng.rxp = .resp →
    (timesOut s → step s = .next { lineRead .lsr s with
      eng := { s.eng with st := afterTests (judgeBytes bs want) } }) ∧
    (fillsBuffer s → step s = .next { byteStored s with
      eng := { (byteStored s).eng with st := afterTests (judgeBytes (bs ++ [lineByte s]) want) } })) ∧
  (∀ s : State, engineMoves s → s.env.ctx.sendsCommands = true →
    (s.eng.st = .diagCsum → ∀ b0 b1 b2 b3 rest, s.eng.rbuf = some b0 :: some b1 :: some b2 :: some b3 :: rest →
      step s = .next { s with
        eng := { s.eng with st := .diagNak }
        env := { s.env with trace := s.env.trace ++ [.diag .csumErr [b0, b1, b2, b3]] } }) ∧
    (s.eng.st = .diagNak → step s = .next (attemptFailed
      { s with env := { s.env with trace := s.env.trace ++ [.diag .nak []] } })) ∧
    (s.eng.st = .diagShort → step s = .next { s with
      eng := { s.eng with txb := .flush, txi := 0, st := .txPoll }
      env := { s.env with trace := s.env.trace ++ [.diag .rxShort [BitVec.ofNat 8 s.eng.rcount]] } }) ∧
    (s.eng.st = .txWrite → s.eng.txb = .flush → s.eng.txi + 1 = s.par.responseCapacity → step s = .next { s with
      eng := { s.eng with txi := s.eng.txi + 1, st := .settleFlush }
      env := { s.env with
        trace := s.env.trace ++ [.wr .data s.par.flushByte]
        bus := s.env.bus ++ [accessOf s true .data (busWord s.par.flushByte)] } }) ∧
    (s.eng.st = .settleFlush → step s = .next { s with
      eng := { s.eng with
        rxp := .drain, rbuf := List.replicate s.par.responseCapacity none, rcount := 0, k := 1, st := .rxPoll }
      env := { s.env with trace := s.env.trace ++ [.sleep s.par.flushSettle] } }) ∧
    (s.eng.rxp = .drain → timesOut s → step s = .next (attemptFailed (lineRead .lsr s))) ∧
    (s.eng.rxp = .drain → fillsBuffer s → step s = .next (attemptFailed (byteStored s)))) ∧
  (∀ s t : State, engineMoves s → step s = .next t →
    (t.eng.st = .diagShort → t.eng.rcount ≤ 3 ∧ s.eng.rxp = .resp ∧ (s.eng.st = .rxPoll ∨ s.eng.st = .rxData)
      ∨ t.eng.fault ≠ 0#8) ∧
    (s.eng.txb = .frame → t.eng.txb = .flush → s.eng.st = .diagShort) ∧
    (t.eng.st = .settleFlush → (s.eng.st = .txWrite ∧ s.eng.txb = .flush) ∨ t.eng.fault ≠ 0#8) ∧
    (s.eng.rxp = .resp → t.eng.rxp = .drain → s.eng.st = .settleFlush))

/-! ## The Shutdown Sequencer -/

/-- `COMPUTE_DIVISOR` (43_shutdown_sequencer.md R153), with its encoding and its corner cases. For another `TARGET_BAUD` the value is
the same quotient wherever it fits the 16 bits of the result; elsewhere nothing is said of it (log entry 13). -/
def Obligations.DivisorIsTheRoundedQuotient : Prop :=
  (∀ (par : Params) (t : Word), (encode par (.computeDivisor t)).bytes =
    [0x21, t.setWidth 8, (t >>> 8).setWidth 8, (t >>> 16).setWidth 8, (t >>> 24).setWidth 8]) ∧
  (∀ (s : State) (t : Word), mayInvoke s →
    exec (.computeDivisor t) s = .next (returned (.divisor (divisorOf s.par t)) s)) ∧
  (∀ (p : Params) (t : Word), 1 ≤ p.targetBaud → (t.toNat + 8 * p.targetBaud) / (16 * p.targetBaud) < 65536 →
    (divisorOf p t).toNat = (t.toNat + 8 * p.targetBaud) / (16 * p.targetBaud)) ∧
  (∀ (p : Params) (t : Word), p.targetBaud = 38400 →
    (divisorOf p t).toNat = (t.toNat + 307200) / 614400 ∧ (divisorOf p t).toNat ≤ 6991 ∧
    (t.toNat < 307200 → divisorOf p t = 0)) ∧
  (∀ p : Params, p.targetBaud = 38400 →
    divisorOf p 60000000 = 98 ∧ divisorOf p 307200 = 1 ∧ divisorOf p 921600 = 2 ∧ divisorOf p 0xFFFFFFFF = 6991)

/-- `RUN_SEQUENCE` (43_shutdown_sequencer.md R156): it starts command 0; its run is the three commands one after another,
and records each result; `attempt` keeps the last command's count (10_state.md R24). -/
def Obligations.RunSequenceRunsItsPseudocode : Prop :=
  ∀ s : State, mayInvoke s → Inv s →
    exec .runSequence s = .next { commandStarted s.par.payload.watchdogKill s with
      eng := { (commandStarted s.par.payload.watchdogKill s).eng with cmdIdx := .watchdogKill }
      env := { s.env with ctx := .runSequence, ret := .noValue } } ∧
    (noRequest s → ∀ results n ev rest, bigSequence s.par s.env.line = some (results, n, ev, rest) →
      ∃ e t, completesTo .runSequence s t ∧ sameButTransfer e (sequenceDone s.par results n s.eng) ∧
        ranTo s e ev rest .noValue t)

/-- An accepted `TRIGGER` (43_shutdown_sequencer.md R150): the state it starts in, and its run: the configuration, the three
commands, then `HANDLED` and `DONE`. -/
def Obligations.AcceptedTriggerRunsToHandled : Prop :=
  ∀ (s : State) (reason : Reason) (arg : Word), reason = .shutdown ∨ reason = .halt → mayInvoke s →
    exec (.trigger reason arg) s = .next { s with
      eng := { s.eng with divisor := some (divisorOf s.par s.eng.tickRate), cfgJ := 0, st := .cfg }
      env := { s.env with trace := s.env.trace ++ [.trig reason arg], ctx := .engine, ret := .noValue } } ∧
    (noRequest s → Inv s → ∀ results n ev rest,
      bigTrigger s.par s.eng.tickRate s.env.line = some (results, n, ev, rest) →
      ∃ e t, completesTo (.trigger reason arg) s t ∧
        sameButTransfer e { sequenceDone s.par results n s.eng with
          st := .done
          divisor := some (divisorOf s.par s.eng.tickRate)
          cfgJ := cfgLen s.par
          cfgDivisor := some (divisorOf s.par s.eng.tickRate)
          cfgFormat := some s.par.lcrFormat } ∧
        ranTo s e (.trig reason arg :: ev) rest (.call .handled) t)

/-- The reason filter (43_shutdown_sequencer.md R151; 60_exceptions.md R183): `NOT_HANDLED` at once, in every micro-state, and
nothing else. -/
def Obligations.UnacceptedReasonsAreNotHandled : Prop :=
  ∀ (s : State) (code : Nat) (arg : Word), s.eng.fault = 0#8 →
    exec (.trigger (.other code) arg) s = .next { s with env := { s.env with
      trace := s.env.trace ++ [.trig (.other code) arg, .ret .notHandled], ret := .call .notHandled } }

/-- Re-entry (43_shutdown_sequencer.md R152): an accepted reason outside `IDLE` faults; the host's own codes reach the same
tests (30_encoding.md R78). -/
def Obligations.SecondAcceptedTriggerFaults : Prop :=
  (∀ (s : State) (reason : Reason) (arg : Word), reason = .shutdown ∨ reason = .halt → s.eng.fault = 0#8 →
    s.eng.st ≠ .idle →
    ∃ c v, exec (.trigger reason arg) s = .next { s with
      eng := { s.eng with fault := 0x81 }
      env := { s.env with trace := s.env.trace ++ [.trig reason arg, .fault .reentrantTrigger], ctx := c, ret := v } }) ∧
  (∀ p : Params, p.reasonCodeShutdown ≠ p.reasonCodeHalt →
    hostReason p p.reasonCodeShutdown = .shutdown ∧ hostReason p p.reasonCodeHalt = .halt ∧
    ∀ code, code ≠ p.reasonCodeShutdown → code ≠ p.reasonCodeHalt → hostReason p code = .other code)

/-- The argument is never read (43_shutdown_sequencer.md R150): two calls that differ only in it differ only in the `TRIG`
event, at the call and in every state the engine then runs to, with the same later events and the same bus accesses. -/
def Obligations.TriggerArgumentIsNeverRead : Prop :=
  ∀ (s t : State) (reason : Reason) (a b : Word) (n : Nat), exec (.trigger reason a) s = .next t →
    ∃ es, t.env.trace = s.env.trace ++ .trig reason a :: es ∧
      exec (.trigger reason b) s = .next (withHistory (s.env.trace ++ .trig reason b :: es) s.env.bus t) ∧
      ∀ u, Host.Core.run Sys2Proof.core n t = .next u →
        ∃ later added, u.env.trace = s.env.trace ++ .trig reason a :: (es ++ later) ∧ u.env.bus = s.env.bus ++ added ∧
          Host.Core.run Sys2Proof.core n (withHistory (s.env.trace ++ .trig reason b :: es) s.env.bus t) =
            .next (withHistory (s.env.trace ++ .trig reason b :: (es ++ later)) (s.env.bus ++ added) u)

/-- No failed command stops the sequence, and the host never learns of it (43_shutdown_sequencer.md R157, R158): after the
post-command delay, whatever the result, the next command starts, and after the third the call returns `HANDLED`. That `ret` takes
the result of a call on the host's port too is the model's choice (log entry 34). -/
def Obligations.FailedCommandsDoNotStopTheSequence : Prop :=
  ∀ (s : State) (r : CmdResult), engineMoves s → s.env.ctx = .engine ∨ s.env.ctx = .runSequence → Inv s →
    (s.eng.st = .postOk ∧ r = .ok) ∨ (s.eng.st = .exhSleep ∧ r = .fail) →
    (∀ c, s.eng.cmdIdx.next? = some c → step s = .next { commandStarted (s.par.payload.get c) s with
      eng := { (commandStarted (s.par.payload.get c) s).eng with
        cmdIdx := c, cmdResult := s.eng.cmdResult.set s.eng.cmdIdx r }
      env := { s.env with trace := s.env.trace ++ [.sleep s.par.postCmdDelay] } }) ∧
    (s.eng.cmdIdx = .powerOff → s.env.ctx = .engine → ∃ t u, step s = .next t ∧ step t = .next u ∧
      t = { s with
        eng := { s.eng with cmdResult := s.eng.cmdResult.set .powerOff r, st := .returning }
        env := { s.env with trace := s.env.trace ++ [.sleep s.par.postCmdDelay] } } ∧
      u = { t with
        eng := { t.eng with st := .done }
        env := { t.env with trace := t.env.trace ++ [.ret .handled], ret := .call .handled } })

/-- `DONE` is terminal (43_shutdown_sequencer.md R159): no step but attach leaves it, and no step in it changes a register
but `fault`. -/
def Obligations.DoneIsTerminal : Prop :=
  ∀ s t : State, s.eng.st = .done → s.env.attachReq = none → step s = .next t →
    t.par = s.par ∧ t.eng = { s.eng with fault := t.eng.fault } ∧ t.env.bus = s.env.bus ∧
    (t.eng.fault ≠ s.eng.fault → t.eng.fault = 0x81)

/-! ## The wire rows and the reason rows -/

/-- The four frame rows (30_encoding.md R71, R75): each builds and sends its frame; a frame row reads its payload from the
parameters (log entry 10). -/
def Obligations.FrameRowsSendTheirFrames : Prop :=
  (∀ s : State, mayInvoke s → s.par.payload.watchdogKill.length ≤ s.par.maxPayloadLen →
    sendsItsFrame .frameWatchdogKill s.par.payload.watchdogKill s) ∧
  (∀ s : State, mayInvoke s → s.par.payload.shutdownWait.length ≤ s.par.maxPayloadLen →
    sendsItsFrame .frameShutdownWait s.par.payload.shutdownWait s) ∧
  (∀ s : State, mayInvoke s → s.par.payload.powerOff.length ≤ s.par.maxPayloadLen →
    sendsItsFrame .framePowerOff s.par.payload.powerOff s) ∧
  (∀ (s : State) (p : List Byte), mayInvoke s → p.length ≤ s.par.maxPayloadLen → sendsItsFrame (.commandFrame p) p s) ∧
  (∀ (s : State) (p : List Byte), mayInvoke s → s.par.maxPayloadLen < p.length →
    endsInFault (.commandFrame p) .badPayload s)

/-- A delivered response is read whole, up to the buffer, and judged against `ack` (30_encoding.md R72; log entry 11). -/
def Obligations.DeliveredResponseIsReadAndJudged : Prop :=
  ∀ (s : State) (a : Byte) (tail : List Byte), mayInvoke s →
    exec (.ackResponse a tail) s = .next { s with
      eng := { s.eng with
        rxp := .resp, rbuf := List.replicate s.par.responseCapacity none, rcount := 0, k := 1, st := .rxPoll }
      env := { s.env with
        line := deliveryOf s.par (responseOf a tail) ++ s.env.line, ctx := .response, ret := .noValue } } ∧
    (noRequest s → Inv s → ackWritten s.eng = true →
      ∃ ev k t, completesTo (.ackResponse a tail) s t ∧
        bigReadBytes s.par s.par.responseCapacity (deliveryOf s.par (responseOf a tail) ++ s.env.line) =
          some ((responseOf a tail).take s.par.responseCapacity, ev, s.env.line) ∧
        ranTo s { s.eng with
          rxp := .resp
          rbuf := ((responseOf a tail).take s.par.responseCapacity).map some ++
            List.replicate (s.par.responseCapacity - (responseOf a tail).length) none
          rcount := min (responseOf a tail).length s.par.responseCapacity
          k := k } ev s.env.line (.attempt (if s.eng.ack = [some 0x01, some a, some 0x00] then .acked else .nak)) t)

/-- The reference row writes `ack`; the preamble row sends `RESPONSE_CAPACITY` flush bytes (30_encoding.md R73, R74; log
entries 10, 12). -/
def Obligations.ReferenceAndPreambleRowsComplete : Prop :=
  (∀ (s : State) (a : Byte), mayInvoke s →
    exec (.expectedAckRef a) s = .next (returned .noValue
      { s with eng := { s.eng with ack := [some 0x01, some a, some 0x00] } })) ∧
  (∀ s : State, mayInvoke s →
    exec .resyncPreamble s = .next { s with
      eng := { s.eng with txb := .flush, txi := 0, st := .txPoll }
      env := { s.env with ctx := .transmit, ret := .noValue } } ∧
    (noRequest s → 1 ≤ s.par.responseCapacity → ∀ ev rest,
      bigWriteBytes s.par (List.replicate s.par.responseCapacity s.par.flushByte) s.env.line = some (ev, rest) →
      ∃ t, completesTo .resyncPreamble s t ∧
        ranTo s { s.eng with txb := .flush, txi := s.par.responseCapacity } ev rest .noValue t))

/-- The reason rows raise the notification, with an argument the spec does not give and the engine never reads
(30_encoding.md R78, R82; log entries 8, 12). -/
def Obligations.ReasonRowsRaiseTheNotification : Prop :=
  ∀ s : State,
    (∃ arg, exec .reasonShutdown s =
      exec (.trigger .shutdown arg) { s with env := { s.env with hostCalls := s.env.hostCalls + 1 } }) ∧
    (∃ arg, exec .reasonHalt s =
      exec (.trigger .halt arg) { s with env := { s.env with hostCalls := s.env.hostCalls + 1 } }) ∧
    (mayInvoke s → ∀ i, i = .reasonShutdown ∨ i = .reasonHalt → ∃ reason arg, exec i s = .next { s with
      eng := { s.eng with divisor := some (divisorOf s.par s.eng.tickRate), cfgJ := 0, st := .cfg }
      env := { s.env with
        trace := s.env.trace ++ [.trig reason arg], ctx := .engine, ret := .noValue
        hostCalls := s.env.hostCalls + 1 } })

/-! ## When an invocation does not run -/

/-- A harness invocation other than a call is refused outside `IDLE` (30_encoding.md R81). That the wire rows run under that rule
too is the model's choice (log entries 10 to 12). -/
def Obligations.InvocationsOutsideIdleAreRefused : Prop :=
  ∀ (s : State) (i : Instr), (∀ r arg, i ≠ .trigger r arg) → i ≠ .reasonShutdown → i ≠ .reasonHalt → s.eng.st ≠ .idle →
    exec i s = .refused .notIdle

/-- Under a fault no invocation has an effect and no call returns (10_state.md R33; 93_implementation_defined.md I12; log entry
15): a call is recorded and then hangs, and every step after it, until an attach, leaves the state as it is (log entry 18). -/
def Obligations.CallsUnderAFaultNeverReturn : Prop :=
  (∀ (s t : State) (i : Instr), s.eng.fault ≠ 0#8 → exec i s = .next t →
    t.par = s.par ∧ t.eng = s.eng ∧ t.env.bus = s.env.bus ∧ t.env.line = s.env.line ∧ t.env.ctx = .stuck ∧
    t.env.ret = .noValue ∧ (t.env.trace = s.env.trace ∨ ∃ r arg, t.env.trace = s.env.trace ++ [.trig r arg])) ∧
  (∀ (s : State) (n : Nat), noRequest s → s.env.ctx = .stuck → Host.Core.run Sys2Proof.core n s = .next s)

/-- Faults (10_state.md R33; 60_exceptions.md R187, R188, R189). `fault` is 0 after attach. From an engine without a fault, a step
that ends with one has recorded the kind's event last, written its code, and left every other register and the line as they
were (that the faulting step makes no access and takes no line answer is the model's reading of R188 and R189: log entry 27). With a fault no step changes a register or touches the line, and only
attach clears it. -/
def Obligations.FaultsArePreciseAndSticky : Prop :=
  (∀ (p : Params) (base : Nat) (tickRate : Word), (Engine.attached p base tickRate).fault = 0) ∧
  (∀ s t : State, s.eng.fault = 0#8 → step s = .next t → t.eng.fault ≠ 0#8 →
    ∃ kind es, t.env.trace = s.env.trace ++ es ++ [.fault kind] ∧ (es = [] ∨ ∃ r arg, es = [.trig r arg]) ∧
      t.eng = { s.eng with fault := kind.code } ∧ t.par = s.par ∧ t.env.bus = s.env.bus ∧ t.env.line = s.env.line) ∧
  (∀ s t : State, s.eng.fault ≠ 0#8 → s.env.attachReq = none → step s = .next t →
    t.par = s.par ∧ t.eng = s.eng ∧ t.env.bus = s.env.bus ∧ t.env.line = s.env.line) ∧
  FaultKind.reentrantTrigger.code = 0x81 ∧ FaultKind.badPayload.code = 0x82 ∧ FaultKind.unwritten.code = 0x83

/-! ## Attach, reset, status -/

/-- Attach (70_reset_and_hazards.md R200; 10_state.md R20): every register at its reset value, no event, no access; a
parameter set that breaks 00_scope.md R7 is refused, and no other; an abandoned call never returns, since with no new call, program or
attach nothing happens any more. -/
def Obligations.AttachResetsEveryRegister : Prop :=
  (∀ (s : State) (a : AttachInput), s.env.attachReq = some a → breaksR7 a.params a.base →
    step s = .refused .badParameters) ∧
  (∀ (s : State) (a : AttachInput), s.env.attachReq = some a → ¬ breaksR7 a.params a.base →
    ∃ t, step s = .next t ∧ t.par = a.params ∧
      t.eng =
        { st := .idle, cfgJ := 0, cmdIdx := .watchdogKill, attempt := 0
          frame := List.replicate (a.params.maxPayloadLen + 1) none, frameLen := 0
          ack := [none, none, none]
          rbuf := List.replicate a.params.responseCapacity none, rcount := 0
          k := 0, txb := .frame, txi := 0, rxp := .resp
          divisor := none, base := a.base, tickRate := a.tickRate, cfgFormat := none, cfgDivisor := none
          cmdResult := ⟨.none, .none, .none⟩, fault := 0 } ∧
      status t.eng = 0 ∧ t.env.trace = s.env.trace ∧ t.env.bus = s.env.bus ∧ t.env.line = s.env.line ∧
      (s.env.port = none → s.env.program = [] → ∀ n u, Host.Core.run Sys2Proof.core n t = .next u →
        u.eng = t.eng ∧ u.env.trace = t.env.trace)) ∧
  (∀ (s t : State), step s = .next t → s.env.attachReq = none →
    t.par = s.par ∧ t.eng.base = s.eng.base ∧ t.eng.tickRate = s.eng.tickRate)

/-- The state before anything: the registers an attach leaves, for the reference parameters. `BASE` and `TICK_RATE` have the
values of log entry 1, the model's choice. -/
def Obligations.ResetIsAnAttachedEngine : Prop :=
  State.reset.eng = Engine.attached State.reset.par State.reset.eng.base State.reset.eng.tickRate ∧
  State.reset.env.trace = [] ∧ State.reset.env.bus = [] ∧ State.reset.env.program = [] ∧
  Inv State.reset ∧ hazardsRespected State.reset

/-- The layout of the status view (10_state.md R34), for registers in their ranges. -/
def Obligations.StatusFieldsStandWhereTheSpecPutsThem : Prop :=
  ∀ e : Engine, e.cfgJ ≤ 7 → e.attempt ≤ 15 →
    ((status e).extractLsb' 0 4).toNat = e.st.code ∧
    ((status e).extractLsb' 4 3).toNat = e.cfgJ ∧
    ((status e).extractLsb' 7 1).toNat = 0 ∧
    ((status e).extractLsb' 8 2).toNat = e.cmdIdx.index ∧
    ((status e).extractLsb' 10 4).toNat = e.attempt ∧
    ((status e).extractLsb' 14 2).toNat = e.cmdResult.watchdogKill.code ∧
    ((status e).extractLsb' 16 2).toNat = e.cmdResult.shutdownWait.code ∧
    ((status e).extractLsb' 18 2).toNat = e.cmdResult.powerOff.code ∧
    ((status e).extractLsb' 20 4).toNat = 0 ∧
    (status e).extractLsb' 24 8 = e.fault

/-! ## The line: accesses, answers, hazards -/

/-- The accesses of a step are those its events stand for, each one access of `BUS_WIDTH` at its register's address, with
the byte in bits 7:0 and a written word zero-extended (20_memory.md R55 to R57); only `DATA` and `LSR` are read, and `LSR` is
never written (R51). -/
def Obligations.BusAccessesMatchTheTrace : Prop :=
  ∀ s t : State, step s = .next t →
    ∃ es added, t.env.trace = s.env.trace ++ es ∧ t.env.bus = s.env.bus ++ added ∧
      added.map BusAccess.seen = eventAccesses s es ∧
      (∀ a ∈ added, a.isWrite = true → a.word = busWord (busByte a.word)) ∧
      (∀ r v, .rd r v ∈ es → r = .data ∨ r = .lsr) ∧ (∀ r v, .wr r v ∈ es → r ≠ .lsr)

/-- Addresses (20_memory.md R52, R58): with a parameter set of 00_scope.md R7 no address of a register index up to 7 wraps,
and with a stride that is a multiple of 4 every address is aligned. -/
def Obligations.RegisterAddressesNeitherWrapNorMisalign : Prop :=
  ∀ (p : Params) (base : Nat) (r : LineReg), paramsValid p base = true →
    (regIndex p r ≤ 7 → regAddr p base r = base + p.regStride * regIndex p r) ∧
    (p.regStride % 4 = 0 → regAddr p base r % 4 = 0)

/-- The engine tests exactly two status bits (20_memory.md R53): two answers to a poll that agree on the bit the poll tests
lead to the same state, but for the record of the answer itself. -/
def Obligations.OnlyTheTestedStatusBitMatters : Prop :=
  ∀ (s t : State) (w w' : Word) (rest : List Word), engineMoves s → s.env.line = w :: rest →
    (s.eng.st = .txPoll ∧ holdingEmpty s.par (busByte w) = holdingEmpty s.par (busByte w')) ∨
      (s.eng.st = .rxPoll ∧ dataReady s.par (busByte w) = dataReady s.par (busByte w')) →
    step s = .next t → t.eng.fault = 0#8 →
    step { s with env := { s.env with line := w' :: rest } } =
      .next (withHistory (s.env.trace ++ [.rd .lsr (busByte w')]) (s.env.bus ++ [accessOf s false .lsr w']) t)

/-- Nothing reads the record of past events and accesses (60_exceptions.md R185): a step adds to it and depends on none of
it. -/
def Obligations.StepsNeverReadThePast : Prop :=
  ∀ s t : State, step s = .next t → ∃ es added, ∀ trace bus,
    step (withHistory trace bus s) = .next (withHistory (trace ++ es) (bus ++ added) t)

/-- The receive and transmit hazards (70_reset_and_hazards.md R210, R211), kept by every step: `DATA` is read only right
after a poll that saw DR, and written only right after a poll that saw THRE, with no other access between. -/
def Obligations.DataIsAccessedOnlyRightAfterItsPoll : Prop :=
  ∀ s t : State, hazardsRespected s → step s = .next t →
    hazardsRespected t ∧
    ∃ es, t.env.trace = s.env.trace ++ es ∧
      ∀ v, (.rd .data v ∈ es → s.eng.st = .rxData ∧ lastReadLsr dataReady s ∧ t.eng.st ≠ .rxData) ∧
        (.wr .data v ∈ es → s.eng.st = .txWrite ∧ lastReadLsr holdingEmpty s ∧ t.eng.st ≠ .txWrite)

/-! ## Invariants and termination -/

/-- Every step keeps the engine's invariant: the register ranges of 10_state.md R20 (`txi` to the longest frame:
log entry 13), the written parts of the buffers (R25, R27), the positions of the pseudocode. -/
def Obligations.EveryStepKeepsTheInvariant : Prop :=
  ∀ s t : State, Inv s → step s = .next t → Inv t

/-- Under the invariant the model never stops with a fault of its own, and an engine step raises a fault only where a harness
`ATTEMPT` or a delivered response meets an unwritten `ack` (00_scope.md R13; 60_exceptions.md R188). -/
def Obligations.CommandsReadNoUnwrittenByte : Prop :=
  ∀ s : State, Inv s →
    (∀ f, step s ≠ .fault f) ∧
    (engineMoves s → (s.env.ctx ≠ .attempt ∧ s.env.ctx ≠ .response) ∨ ackWritten s.eng = true →
      ∃ t, step s = .next t ∧ t.eng.fault = 0#8)

/-- The engine cannot run for ever but by polling a line that does not drain (41_byte_transport.md R103): some rank falls at
every engine step but a `TX_POLL` that sees THRE clear, where it stays. -/
def Obligations.OnlyAnUndrainedLineKeepsTheEngineRunning : Prop :=
  ∃ rank : State → Nat, ∀ s t : State, Inv s → engineMoves s → step s = .next t →
    rank t < rank s ∨ (s.eng.st = .txPoll ∧ holdingEmpty s.par (lineByte s) = false ∧ rank t = rank s)

/-- A `WRITE_BYTE` ends exactly when an answer shows THRE (41_byte_transport.md R102, R103), and on a line that drains every
operation ends: from any state of a command or an invocation, and from any invocation (a byte list is no longer than its count
byte says, R82), the engine comes to rest. -/
def Obligations.EveryOperationEndsOnALineThatDrains : Prop :=
  (∀ (p : Params) (b : Byte) (ws : List Word),
    (bigWriteByte p b ws).isSome = true ↔ ∃ w ∈ ws, holdingEmpty p (busByte w) = true) ∧
  (∀ s : State, Inv s → engineMoves s → lineDrains s → ∃ t, runsTo s t ∧ atRest t) ∧
  (∀ (s t : State) (i : Instr), Inv s → noRequest s → (∀ bs, i = .writeBytes bs → bs.length ≤ 255) →
    exec i s = .next t → lineDrains t →
    ∃ u, runsTo t u ∧ atRest u)

/-- On a line that drains every accepted call returns `HANDLED` (70_reset_and_hazards.md R204; 60_exceptions.md R184), and no fault
is raised. -/
def Obligations.AcceptedTriggerReturnsOnALineThatDrains : Prop :=
  ∀ (s t : State) (reason : Reason) (arg : Word), reason = .shutdown ∨ reason = .halt → mayInvoke s → Inv s → noRequest s →
    exec (.trigger reason arg) s = .next t → lineDrains t →
    ∃ u, runsTo t u ∧ u.eng.st = .done ∧ u.eng.fault = 0#8 ∧ u.env.trace.getLast? = some (.ret .handled) ∧
      u.env.ret = .call .handled

/-- The bounds on sleeping (70_reset_and_hazards.md R215), for any parameters, and the figure of the reference design. -/
def Obligations.SleepingIsBounded : Prop :=
  (∀ (p : Params) (m : Nat) (ws rest : List Word) (bs : List Byte) (ev : List Event),
    bigReadBytes p m ws = some (bs, ev, rest) →
    sleepUnits ev ≤ m * ((p.readPollLimit - 1) * p.pollInterval) ∧
    (bs.length ≤ 3 → sleepUnits ev ≤ 4 * ((p.readPollLimit - 1) * p.pollInterval))) ∧
  (∀ (p : Params) (frame ack : List Byte) (ws rest : List Word) (o : AttemptOutcome) (ev : List Event),
    bigAttempt p frame ack ws = some (o, ev, rest) →
    sleepUnits ev ≤ if o = .short then
        4 * ((p.readPollLimit - 1) * p.pollInterval) + p.flushSettle +
          p.responseCapacity * ((p.readPollLimit - 1) * p.pollInterval)
      else p.responseCapacity * ((p.readPollLimit - 1) * p.pollInterval)) ∧
  (∀ (p : Params) (c : Command) (pl : List Byte) (ws : List Word) (r : CommandRun),
    bigSendCommand p c pl ws = some r →
    sleepUnits r.events ≤ p.retryLimit * (4 * ((p.readPollLimit - 1) * p.pollInterval) + p.flushSettle +
      p.responseCapacity * ((p.readPollLimit - 1) * p.pollInterval)) + p.postCmdDelay) ∧
  (∀ (tickRate : Word) (ws rest : List Word) (r : PerCommand CmdResult) (n : Nat) (ev : List Event),
    bigTrigger Params.reference tickRate ws = some (r, n, ev, rest) → sleepMillis Params.reference ev ≤ 4494)
end

