-- ==== Sys2Proof/Laws/State.lean ====
section
/-! SUPPORT. What each named operation does to each part of the state, once, true by unfolding: proofs rewrite with these
and do not unfold the operations. -/

namespace Sys2Proof.Machine

@[simp] theorem emit_par (e : Event) (s : State) : (emit e s).par = s.par := rfl
@[simp] theorem emit_eng (e : Event) (s : State) :
    (emit e s).eng = s.eng := rfl
@[simp] theorem emit_env (e : Event) (s : State) :
    (emit e s).env = { s.env with trace := s.env.trace ++ [e] } := rfl

@[simp] theorem lineRead_par (r : LineReg) (s : State) : (lineRead r s).par = s.par := rfl
@[simp] theorem lineRead_eng (r : LineReg) (s : State) :
    (lineRead r s).eng = s.eng := rfl
@[simp] theorem lineRead_env (r : LineReg) (s : State) :
    (lineRead r s).env = { s.env with line := s.env.line.tail, lineReads := s.env.lineReads + 1, bus := s.env.bus ++ [accessOf s false r (lineWord s)], trace := s.env.trace ++ [.rd r (lineByte s)] } := rfl

@[simp] theorem lineWrite_par (r : LineReg) (v : Byte) (s : State) : (lineWrite r v s).par = s.par := rfl
@[simp] theorem lineWrite_eng (r : LineReg) (v : Byte) (s : State) :
    (lineWrite r v s).eng = s.eng := rfl
@[simp] theorem lineWrite_env (r : LineReg) (v : Byte) (s : State) :
    (lineWrite r v s).env = { s.env with bus := s.env.bus ++ [accessOf s true r (busWord v)], trace := s.env.trace ++ [.wr r v] } := rfl

@[simp] theorem sleep_par (d : Nat) (s : State) : (sleep d s).par = s.par := rfl
@[simp] theorem sleep_eng (d : Nat) (s : State) :
    (sleep d s).eng = s.eng := rfl
@[simp] theorem sleep_env (d : Nat) (s : State) :
    (sleep d s).env = { s.env with trace := s.env.trace ++ [.sleep d] } := rfl

@[simp] theorem diag_par (c : DiagCode) (data : List Byte) (s : State) : (diag c data s).par = s.par := rfl
@[simp] theorem diag_eng (c : DiagCode) (data : List Byte) (s : State) :
    (diag c data s).eng = s.eng := rfl
@[simp] theorem diag_env (c : DiagCode) (data : List Byte) (s : State) :
    (diag c data s).env = { s.env with trace := s.env.trace ++ [.diag c data] } := rfl

@[simp] theorem returnCall_par (r : CallResult) (s : State) : (returnCall r s).par = s.par := rfl
@[simp] theorem returnCall_eng (r : CallResult) (s : State) :
    (returnCall r s).eng = s.eng := rfl
@[simp] theorem returnCall_env (r : CallResult) (s : State) :
    (returnCall r s).env = { s.env with trace := s.env.trace ++ [.ret r], ret := .call r } := rfl

@[simp] theorem raiseFault_par (k : FaultKind) (s : State) : (raiseFault k s).par = s.par := rfl
@[simp] theorem raiseFault_eng (k : FaultKind) (s : State) :
    (raiseFault k s).eng = { s.eng with fault := k.code } := rfl
@[simp] theorem raiseFault_env (k : FaultKind) (s : State) :
    (raiseFault k s).env = { s.env with trace := s.env.trace ++ [.fault k], ctx := .engine } := rfl

@[simp] theorem goto_par (st : MicroState) (s : State) : (goto st s).par = s.par := rfl
@[simp] theorem goto_eng (st : MicroState) (s : State) :
    (goto st s).eng = { s.eng with st := st } := rfl
@[simp] theorem goto_env (st : MicroState) (s : State) :
    (goto st s).env = s.env := rfl

@[simp] theorem finish_par (v : RetVal) (s : State) : (finish v s).par = s.par := rfl
@[simp] theorem finish_eng (v : RetVal) (s : State) :
    (finish v s).eng = { s.eng with st := .idle } := rfl
@[simp] theorem finish_env (v : RetVal) (s : State) :
    (finish v s).env = { s.env with ctx := .engine, ret := v } := rfl

@[simp] theorem enter_par (c : Ctx) (s : State) : (enter c s).par = s.par := rfl
@[simp] theorem enter_eng (c : Ctx) (s : State) :
    (enter c s).eng = s.eng := rfl
@[simp] theorem enter_env (c : Ctx) (s : State) :
    (enter c s).env = { s.env with ctx := c } := rfl

@[simp] theorem beginTx_par (src : TxSource) (s : State) : (beginTx src s).par = s.par := rfl
@[simp] theorem beginTx_eng (src : TxSource) (s : State) :
    (beginTx src s).eng = { s.eng with txb := src, txi := 0, st := .txPoll } := rfl
@[simp] theorem beginTx_env (src : TxSource) (s : State) :
    (beginTx src s).env = s.env := rfl

@[simp] theorem freshRead_par (s : State) : (freshRead s).par = s.par := rfl
@[simp] theorem freshRead_eng (s : State) :
    (freshRead s).eng = { s.eng with rbuf := List.replicate s.par.responseCapacity none, rcount := 0, k := 1, st := .rxPoll } := rfl
@[simp] theorem freshRead_env (s : State) :
    (freshRead s).env = s.env := rfl

@[simp] theorem beginRx_par (p : RxPurpose) (s : State) : (beginRx p s).par = s.par := rfl
@[simp] theorem beginRx_eng (p : RxPurpose) (s : State) :
    (beginRx p s).eng = { s.eng with rxp := p, rbuf := List.replicate s.par.responseCapacity none, rcount := 0, k := 1, st := .rxPoll } := rfl
@[simp] theorem beginRx_env (p : RxPurpose) (s : State) :
    (beginRx p s).env = s.env := rfl

@[simp] theorem beginAttempt_par (s : State) : (beginAttempt s).par = s.par := rfl
@[simp] theorem beginAttempt_eng (s : State) :
    (beginAttempt s).eng = { s.eng with attempt := s.eng.attempt + 1, txb := .frame, txi := 0, st := .txPoll } := rfl
@[simp] theorem beginAttempt_env (s : State) :
    (beginAttempt s).env = s.env := rfl

@[simp] theorem accept_par (s : State) : (accept s).par = s.par := rfl
@[simp] theorem accept_eng (s : State) :
    (accept s).eng = { s.eng with divisor := some (divisorOf s.par s.eng.tickRate), cfgJ := 0, st := .cfg } := rfl
@[simp] theorem accept_env (s : State) :
    (accept s).env = s.env := rfl

@[simp] theorem attachNow_par (a : AttachInput) (s : State) : (attachNow a s).par = a.params := rfl
@[simp] theorem attachNow_eng (a : AttachInput) (s : State) :
    (attachNow a s).eng = Engine.attached a.params a.base a.tickRate := rfl
@[simp] theorem attachNow_env (a : AttachInput) (s : State) :
    (attachNow a s).env = { s.env with attachReq := none, ctx := .engine } := rfl

@[simp] theorem returned_par (v : RetVal) (s : State) : (returned v s).par = s.par := rfl
@[simp] theorem returned_eng (v : RetVal) (s : State) :
    (returned v s).eng = s.eng := rfl
@[simp] theorem returned_env (v : RetVal) (s : State) :
    (returned v s).env = { s.env with ctx := .engine, ret := v } := rfl

@[simp] theorem faulted_par (k : FaultKind) (s : State) : (faulted k s).par = s.par := rfl
@[simp] theorem faulted_eng (k : FaultKind) (s : State) :
    (faulted k s).eng = { s.eng with fault := k.code } := rfl
@[simp] theorem faulted_env (k : FaultKind) (s : State) :
    (faulted k s).env = { s.env with trace := s.env.trace ++ [.fault k], ctx := .engine, ret := .noValue } := rfl

@[simp] theorem byteStored_par (s : State) : (byteStored s).par = s.par := rfl
@[simp] theorem byteStored_eng (s : State) :
    (byteStored s).eng = { s.eng with
      rbuf := s.eng.rbuf.set s.eng.rcount (some (lineByte s)), rcount := s.eng.rcount + 1 } := rfl
@[simp] theorem byteStored_env (s : State) : (byteStored s).env = (lineRead .data s).env := rfl

@[simp] theorem attemptFailed_par (s : State) : (attemptFailed s).par = s.par := by unfold attemptFailed; split <;> rfl
@[simp] theorem attemptFailed_env (s : State) : (attemptFailed s).env = s.env := by unfold attemptFailed; split <;> rfl

@[simp] theorem hung_par (s : State) : (hung s).par = s.par := rfl
@[simp] theorem hung_eng (s : State) :
    (hung s).eng = s.eng := rfl
@[simp] theorem hung_env (s : State) :
    (hung s).env = { s.env with ctx := .stuck, ret := .noValue } := rfl

end Sys2Proof.Machine
end

