-- ==== Sys2Proof/Laws/Operands.lean ====
section
/-! SUPPORT. Sums, buffers and bus values: one lemma for each way they are taken apart. -/

namespace Sys2Proof.Machine

@[simp] theorem sum8_nil : sum8 [] = 0 := rfl

theorem sum8_cons (b : Byte) (s : List Byte) : sum8 (b :: s) = b + sum8 s := by
  apply BitVec.eq_of_toNat_eq
  simp [sum8, BitVec.toNat_add, BitVec.toNat_ofNat]

theorem sum8_append (s t : List Byte) : sum8 (s ++ t) = sum8 s + sum8 t := by
  induction s with
  | nil => simp
  | cons b s ih => rw [List.cons_append, sum8_cons, sum8_cons, ih, BitVec.add_assoc]

theorem neg8_eq_neg (x : Byte) : neg8 x = -x := by
  apply BitVec.eq_of_toNat_eq
  simp [neg8, BitVec.toNat_neg]

@[simp] theorem frameOf_length (p : List Byte) : (frameOf p).length = p.length + 1 := by simp [frameOf]

@[simp] theorem ackOf_length (a : Byte) : (ackOf a).length = 3 := rfl

theorem frameOf_ne_nil (p : List Byte) : frameOf p ≠ [] := by simp [frameOf]

theorem overwriteFrame_length (p : List Byte) (buf : List (Option Byte)) (h : p.length + 1 ≤ buf.length) :
    (overwriteFrame p buf).length = buf.length := by
  simp [overwriteFrame]; omega

theorem overwriteFrame_take (p : List Byte) (buf : List (Option Byte)) :
    (overwriteFrame p buf).take (p.length + 1) = (frameOf p).map some := by
  unfold overwriteFrame
  rw [List.take_append_of_le_length (by simp), List.take_of_length_le (by simp)]

/-- Reading succeeds exactly on a written prefix, and gives its bytes. -/
theorem readFirst_eq_ok_iff (n : Nat) (buf : List (Option Byte)) (bs : List Byte) :
    readFirst n buf = .ok bs ↔ bs.length = n ∧ buf.take n = bs.map some := by
  induction n generalizing buf bs with
  | zero =>
    cases bs with
    | nil => simp [readFirst]
    | cons b bs => simp [readFirst]
  | succ n ih =>
    match buf with
    | [] => cases bs <;> simp [readFirst]
    | none :: rest => cases bs <;> simp [readFirst]
    | some b :: rest =>
      cases bs with
      | nil => cases h : readFirst n rest <;> simp [readFirst, h]
      | cons c cs =>
        have ih' := ih rest cs
        cases h : readFirst n rest with
        | error e =>
          rw [h] at ih'
          constructor
          · intro hh; simp [readFirst, h] at hh
          · rintro ⟨hl, ht⟩
            simp only [List.take_succ_cons, List.map_cons, List.cons.injEq] at ht
            exact absurd (ih'.2 ⟨by simpa using hl, ht.2⟩) (by simp)
        | ok ds =>
          simp only [readFirst, h, Except.ok.injEq, List.cons.injEq, List.length_cons, List.take_succ_cons,
            List.map_cons, Option.some.injEq] at ih' ⊢
          constructor
          · rintro ⟨rfl, rfl⟩; exact ⟨by have := (ih'.1 rfl).1; omega, rfl, (ih'.1 rfl).2⟩
          · rintro ⟨hl, rfl, ht⟩; exact ⟨rfl, ih'.2 ⟨by omega, ht⟩⟩

/-- The one fault of a buffer read. -/
theorem readFirst_error (n : Nat) (buf : List (Option Byte)) (k : FaultKind) (h : readFirst n buf = .error k) :
    k = .unwritten := by
  induction n generalizing buf with
  | zero => simp [readFirst] at h
  | succ n ih =>
    match buf with
    | [] => simp [readFirst] at h; exact h.symm
    | none :: rest => simp [readFirst] at h; exact h.symm
    | some b :: rest =>
      cases hr : readFirst n rest with
      | ok bs => simp [readFirst, hr] at h
      | error e => simp [readFirst, hr] at h; subst h; exact ih rest hr

/-- A written prefix can be read. -/
theorem readFirst_of_written (n : Nat) (buf : List (Option Byte)) (hl : n ≤ buf.length)
    (hw : (buf.take n).all Option.isSome = true) : ∃ bs, readFirst n buf = .ok bs := by
  induction n generalizing buf with
  | zero => exact ⟨[], rfl⟩
  | succ n ih =>
    match buf with
    | [] => simp at hl
    | none :: rest => simp at hw
    | some b :: rest =>
      obtain ⟨bs, hb⟩ := ih rest (by simpa using hl) (by simpa using hw)
      exact ⟨b :: bs, by simp [readFirst, hb]⟩

theorem readAt_eq_ok_iff (buf : List (Option Byte)) (i : Nat) (b : Byte) :
    readAt buf i = .ok b ↔ buf[i]? = some (some b) := by
  unfold readAt
  rcases h : buf[i]? with _ | _ | c <;> simp

theorem readAt_error (buf : List (Option Byte)) (i : Nat) (k : FaultKind) (h : readAt buf i = .error k) : k = .unwritten := by
  unfold readAt at h
  rcases hb : buf[i]? with _ | _ | c <;> simp [hb] at h <;> exact h.symm

theorem readReg_eq_ok_iff {α : Type} (r : Option α) (v : α) : readReg r = .ok v ↔ r = some v := by
  cases r <;> simp [readReg]

@[simp] theorem busByte_busWord (b : Byte) : busByte (busWord b) = b := by
  simp [busByte, busWord]

/-- The divisor is the exact quotient wherever the spec states one. -/
theorem divisorOf_eq (p : Params) (t : Word) (hb : 1 ≤ p.targetBaud) (hq : exactDivisor p t < 2 ^ 16) :
    (divisorOf p t).toNat = exactDivisor p t := by
  rw [divisorOf, if_pos ⟨hb, hq⟩, BitVec.toNat_ofNat, Nat.mod_eq_of_lt hq]

/-- At the reference baud the quotient fits for every tick rate (10_state.md R31). -/
theorem exactDivisor_le (p : Params) (t : Word) (hb : p.targetBaud = 38400) : exactDivisor p t ≤ 6991 := by
  have := t.isLt
  simp only [exactDivisor, hb]
  omega

theorem cfgSeq_length (p : Params) (d : Option Half) (f : Byte) : (cfgSeq p d f).length = cfgLen p := by
  unfold cfgSeq cfgLen; cases p.lineBinding <;> rfl

theorem cfgLen_pos (p : Params) : 0 < cfgLen p := by unfold cfgLen; cases p.lineBinding <;> decide

theorem cfgLen_le (p : Params) : cfgLen p ≤ 7 := by unfold cfgLen; cases p.lineBinding <;> decide

end Sys2Proof.Machine
end

