-- ==== Sys2Proof/Laws/Ops.lean ====
section
/-! SUPPORT. One inversion lemma for each shared operation and each procedure of the step table: if it answers, then this
is what it did. Proofs cite these instead of unfolding. -/

namespace Sys2Proof.Machine

theorem settle_cases (before : State) (r : Except FaultKind State) :
    (∃ t, r = .ok t ∧ settle before r = t) ∨ (∃ k, r = .error k ∧ settle before r = raiseFault k before) := by
  cases r with
  | ok t => exact .inl ⟨t, rfl, rfl⟩
  | error k => exact .inr ⟨k, rfl, rfl⟩

theorem buildFrame_ok (p : List Byte) (s t : State) (h : buildFrame p s = .ok t) :
    p.length ≤ s.par.maxPayloadLen ∧
      t = { s with eng := { s.eng with frame := overwriteFrame p s.eng.frame, frameLen := p.length + 1 } } := by
  unfold buildFrame at h
  split at h
  · cases h
  · simp only [Except.ok.injEq] at h; exact ⟨by omega, h.symm⟩

theorem buildFrame_error (p : List Byte) (s : State) (k : FaultKind) (h : buildFrame p s = .error k) :
    k = .badPayload ∧ s.par.maxPayloadLen < p.length := by
  unfold buildFrame at h
  split at h
  · rename_i hl; cases h; exact ⟨rfl, hl⟩
  · cases h

theorem badPayloadLen_false (par : Params) (p : List Byte) :
    badPayloadLen par p = false ↔ 2 ≤ p.length ∧ p.length ≤ par.maxPayloadLen := by
  simp only [badPayloadLen, Bool.or_eq_false_iff, decide_eq_false_iff_not]; omega

theorem expectedAck_ok (p : List Byte) (s t : State) (h : expectedAck p s = .ok t) :
    2 ≤ p.length ∧ p.length ≤ s.par.maxPayloadLen ∧
      t = { s with eng := { s.eng with ack := (ackOf (p.getD 1 0)).map some } } := by
  unfold expectedAck at h
  split at h
  · cases h
  · rename_i hb
    simp only [Bool.not_eq_true, badPayloadLen_false] at hb
    simp only [Except.ok.injEq] at h
    exact ⟨hb.1, hb.2, h.symm⟩

/-- `startCommand` in one equation. -/
theorem startCommand_eq (p : List Byte) (s : State) :
    startCommand p s = if badPayloadLen s.par p then .error .badPayload else .ok (commandStarted p s) := by
  unfold startCommand
  split
  · rfl
  · rename_i hb
    have hb' := hb
    simp only [Bool.not_eq_true, badPayloadLen_false] at hb
    have h1 : ¬ s.par.maxPayloadLen < p.length := by omega
    simp [buildFrame, expectedAck, h1, hb', beginAttempt, beginTx, commandStarted]

/-- `begin_command` in one equation. -/
theorem beginCommand_eq (c : Command) (s : State) :
    beginCommand c s =
      if badPayloadLen s.par (s.par.payload.get c) then .error .badPayload
      else .ok (commandStarted (s.par.payload.get c) { s with eng := { s.eng with cmdIdx := c } }) := by
  unfold beginCommand
  rw [startCommand_eq]

/-- What the end of an attempt can do. -/
theorem attemptEnd_cases (o : AttemptOutcome) (s : State) :
    (s.env.ctx = .attempt ∧ attemptEnd o s = finish (.attempt o) s) ∨
    (s.env.ctx ≠ .attempt ∧ o = .acked ∧ attemptEnd o s = goto .postOk s) ∨
    (s.env.ctx ≠ .attempt ∧ o ≠ .acked ∧ s.eng.attempt < s.par.retryLimit ∧ attemptEnd o s = beginAttempt s) ∨
    (s.env.ctx ≠ .attempt ∧ o ≠ .acked ∧ s.par.retryLimit ≤ s.eng.attempt ∧ attemptEnd o s = goto .diagExh s) := by
  unfold attemptEnd
  by_cases hl : s.eng.attempt < s.par.retryLimit
  · cases hc : s.env.ctx <;> cases o <;> simp [hl]
  · cases hc : s.env.ctx <;> cases o <;> simp [hl, Nat.le_of_not_lt hl]

/-- What the end of a command can do, when it does not fault. -/
theorem commandDone_ok (r : CmdResult) (s t : State) (h : commandDone r s = .ok t) :
    (s.env.ctx = .sendCommand ∧ t = finish (.command r) s) ∨
    (s.env.ctx ≠ .sendCommand ∧ ∃ c, s.eng.cmdIdx.next? = some c ∧
      beginCommand c { s with eng := { s.eng with cmdResult := s.eng.cmdResult.set s.eng.cmdIdx r } } = .ok t) ∨
    (s.env.ctx = .runSequence ∧ s.eng.cmdIdx = .powerOff ∧
      t = finish .noValue { s with eng := { s.eng with cmdResult := s.eng.cmdResult.set s.eng.cmdIdx r } }) ∨
    (s.env.ctx ≠ .sendCommand ∧ s.env.ctx ≠ .runSequence ∧ s.eng.cmdIdx = .powerOff ∧
      t = goto .returning { s with eng := { s.eng with cmdResult := s.eng.cmdResult.set s.eng.cmdIdx r } }) := by
  unfold commandDone at h
  cases hc : s.env.ctx <;> cases hi : s.eng.cmdIdx <;> simp [hc, hi, Command.next?] at h ⊢ <;>
    first | exact h.symm | exact h

/-- What the end of a transmission can do. -/
theorem txDone_cases (s : State) :
    (txDone s = finish .noValue s ∧ ((∃ b, s.env.ctx = .writeByte b) ∨ (∃ bs, s.env.ctx = .writeBytes bs) ∨ s.env.ctx = .transmit)) ∨
    (((∀ b, s.env.ctx ≠ .writeByte b) ∧ (∀ bs, s.env.ctx ≠ .writeBytes bs) ∧ s.env.ctx ≠ .transmit) ∧
      ((s.eng.txb = .frame ∧ txDone s = beginRx .resp s) ∨ (s.eng.txb = .flush ∧ txDone s = goto .settleFlush s))) := by
  unfold txDone
  cases hc : s.env.ctx <;> cases hb : s.eng.txb <;> simp

/-- The contexts in which the end of a read is the step table's own. -/
def Ctx.readsForAttempt : Ctx → Bool
  | .readByte => false
  | .readBytes _ => false
  | .resync => false
  | .response => false
  | _ => true

/-- What the end of a read can do, when it does not fault. -/
theorem rxDone_ok (s t : State) (h : rxDone s = .ok t) :
    (s.env.ctx = .readByte ∧ t = finish (.received none) s) ∨
    ((∃ m, s.env.ctx = .readBytes m) ∧ t = finish (.response s.eng.rbuf s.eng.rcount) s) ∨
    (s.env.ctx = .resync ∧ t = finish .noValue s) ∨
    (s.env.ctx = .response ∧ ∃ o, judge s.eng = .ok o ∧ t = finish (.attempt o) s) ∨
    (s.env.ctx.readsForAttempt = true ∧ s.eng.rxp = .drain ∧ t = attemptEnd .short s) ∨
    (s.env.ctx.readsForAttempt = true ∧ s.eng.rxp = .resp ∧
      ((judge s.eng = .ok .short ∧ t = goto .diagShort s) ∨ (judge s.eng = .ok .badCsum ∧ t = goto .diagCsum s) ∨
        (judge s.eng = .ok .nak ∧ t = goto .diagNak s) ∨ (judge s.eng = .ok .acked ∧ t = attemptEnd .acked s))) := by
  unfold rxDone at h
  cases hc : s.env.ctx <;> simp only [hc, Except.ok.injEq] at h <;> simp only [Ctx.readsForAttempt] <;>
    first
    | (subst h; simp)
    | (cases hj : judge s.eng with
        | error k => simp [hj] at h
        | ok o => simp [hj] at h; subst h; simp)
    | (cases hp : s.eng.rxp with
        | drain => simp [hp] at h; subst h; simp
        | resp =>
          cases hj : judge s.eng with
          | error k => simp [hp, hj] at h
          | ok o => cases o <;> simp [hp, hj] at h <;> subst h <;> simp)

/-- The tests of a readable response, in one equation. -/
theorem judge_eq_of_read (e : Engine) (b0 b1 b2 b3 a0 a1 a2 : Byte) (rest : List (Option Byte))
    (hr : e.rbuf = some b0 :: some b1 :: some b2 :: some b3 :: rest) (ha : e.ack = [some a0, some a1, some a2]) :
    judge e = .ok (if e.rcount ≤ 3 then .short else if sum8 [b0, b1, b2, b3] ≠ 0 then .badCsum
      else if b0 = a0 ∧ b1 = a1 ∧ b2 = a2 then .acked else .nak) := by
  by_cases h1 : e.rcount ≤ 3
  · simp [judge, isShort, h1]
  · by_cases h2 : sum8 [b0, b1, b2, b3] = 0#8
    · by_cases h3 : b0 = a0 ∧ b1 = a1 ∧ b2 = a2
      · obtain ⟨r0, r1, r2⟩ := h3
        simp [judge, isShort, checksumGood, ackMatches, readFirst, hr, ha, h1, r0, r1, r2]
        subst r0 r1 r2
        simp [h2]
      · simp [judge, isShort, checksumGood, ackMatches, readFirst, hr, ha, h1, h2, h3]
    · simp [judge, isShort, checksumGood, readFirst, hr, h1, h2]

/-- The end of an attempt that was not acknowledged is `attempt_failed()`. -/
theorem attemptEnd_of_failed (o : AttemptOutcome) (s : State) (hc : s.env.ctx ≠ .attempt) (ho : o ≠ .acked) :
    attemptEnd o s = attemptFailed s := by
  rcases attemptEnd_cases o s with ⟨h, -⟩ | ⟨-, h, -⟩ | ⟨-, -, hl, h⟩ | ⟨-, -, hl, h⟩
  · exact absurd h hc
  · exact absurd h ho
  · simp [h, attemptFailed, hl, beginAttempt, beginTx]
  · simp [h, attemptFailed, Nat.not_lt.mpr hl, goto]

/-- The tests over the registers are the tests over the bytes they hold. -/
theorem judge_of_holdsResponse (bs want : List Byte) (s : State) (h : holdsResponse bs want s) :
    judge s.eng = .ok (judgeBytes bs want) := by
  obtain ⟨hc, hr, hl, ha⟩ := h
  match want, hl with
  | [a0, a1, a2], _ =>
    match bs with
    | [] => simp [judge, isShort, judgeBytes, hc]
    | [b0] => simp [judge, isShort, judgeBytes, hc]
    | [b0, b1] => simp [judge, isShort, judgeBytes, hc]
    | [b0, b1, b2] => simp [judge, isShort, judgeBytes, hc]
    | b0 :: b1 :: b2 :: b3 :: rest =>
      have hb : s.eng.rbuf = some b0 :: some b1 :: some b2 :: some b3 :: s.eng.rbuf.drop 4 := by
        have h4 : s.eng.rbuf.take 4 = [some b0, some b1, some b2, some b3] := by
          have := congrArg (List.take 4) hr
          simpa [List.take_take] using this
        calc s.eng.rbuf = s.eng.rbuf.take 4 ++ s.eng.rbuf.drop 4 := (List.take_append_drop 4 _).symm
          _ = _ := by rw [h4]; rfl
      rw [judge_eq_of_read s.eng b0 b1 b2 b3 a0 a1 a2 _ hb (by simpa using ha)]
      simp [judgeBytes, hc]

/-! ## The answers to come -/

@[simp] theorem upcoming_zero (s : State) : upcoming s 0 = lineWord s := by
  unfold upcoming lineWord; cases s.env.line <;> rfl

/-- A read takes the first answer to come. -/
theorem upcoming_lineRead (r : LineReg) (s : State) (i : Nat) : upcoming (lineRead r s) i = upcoming s (i + 1) := by
  unfold upcoming lineRead
  cases h : s.env.line with
  | nil => simp [Nat.add_assoc, Nat.add_comm 1 i]
  | cons w ws => cases hi : ws[i]? <;> simp [hi, Nat.add_assoc, Nat.add_comm 1 i]

/-- One engine step: the row's next state, or its fault raised in the state before. -/
theorem microStep_next (s t : State) (h : microStep s = .next t) :
    indexInRange s = true ∧ (microRow s = .ok t ∨ ∃ k, microRow s = .error k ∧ t = raiseFault k s) := by
  unfold microStep at h
  split at h
  · rename_i hi
    refine ⟨hi, ?_⟩
    simp only [Host.Outcome.next.injEq] at h
    rcases settle_cases s (microRow s) with ⟨u, hu, hs⟩ | ⟨k, hk, hs⟩
    · exact .inl (by rw [hu, ← h, hs])
    · exact .inr ⟨k, hk, by rw [← h, hs]⟩
  · cases h

/-- What a harness invocation can answer. -/
theorem invoke_cases (r : Option Refusal) (run : State → Except FaultKind State) (s : State) :
    (s.eng.st ≠ .idle ∧ invoke r run s = .refused .notIdle) ∨
    (s.eng.st = .idle ∧ ∃ x, r = some x ∧ invoke r run s = .refused x) ∨
    (s.eng.st = .idle ∧ r = none ∧ s.eng.fault ≠ 0#8 ∧ invoke r run s = .next (hung s)) ∨
    (mayInvoke s ∧ r = none ∧
      ((∃ t, run { s with env := { s.env with ret := .noValue } } = .ok t ∧ invoke r run s = .next t) ∨
        (∃ k, run { s with env := { s.env with ret := .noValue } } = .error k ∧ invoke r run s = .next (faulted k s)))) := by
  by_cases hst : s.eng.st = .idle
  · cases r with
    | some x => exact .inr (.inl ⟨hst, x, rfl, by simp [invoke, hst]⟩)
    | none =>
      by_cases hf : s.eng.fault = 0#8
      · refine .inr (.inr (.inr ⟨⟨hst, hf⟩, rfl, ?_⟩))
        cases hr : run { s with env := { s.env with ret := .noValue } } with
        | ok t => exact .inl ⟨t, rfl, by simp [invoke, hst, hf, hr, settle]⟩
        | error k => exact .inr ⟨k, rfl, by simp [invoke, hst, hf, hr, settle, raiseFault, faulted]⟩
      · exact .inr (.inr (.inl ⟨hst, rfl, hf, by simp [invoke, hst, hf, hung]⟩))
  · exact .inl ⟨hst, by simp [invoke, hst]⟩

/-- An invocation that may run and is not refused runs. -/
theorem invoke_of_mayInvoke (run : State → Except FaultKind State) (s : State) (h : mayInvoke s) :
    invoke none run s = .next (settle { s with env := { s.env with ret := .noValue } }
      (run { s with env := { s.env with ret := .noValue } })) := by
  simp [invoke, h.1, h.2]

/-- What a trigger call can do (43_shutdown_sequencer.md R150 to R152). -/
theorem triggerCall_cases (r : Reason) (arg : Word) (s : State) :
    (s.eng.fault ≠ 0#8 ∧ triggerCall r arg s = hung (emit (.trig r arg) s)) ∨
    (s.eng.fault = 0#8 ∧ accepted r = false ∧ triggerCall r arg s = returnCall .notHandled (emit (.trig r arg) s)) ∨
    (s.eng.fault = 0#8 ∧ accepted r = true ∧ s.eng.st ≠ .idle ∧
      triggerCall r arg s = faulted .reentrantTrigger (emit (.trig r arg) s)) ∨
    (mayInvoke s ∧ accepted r = true ∧
      triggerCall r arg s = accept (returned .noValue (emit (.trig r arg) s))) := by
  by_cases hf : s.eng.fault = 0#8
  · cases ha : accepted r with
    | false => exact .inr (.inl ⟨hf, rfl, by simp [triggerCall, hf, ha]⟩)
    | true =>
      by_cases hs : s.eng.st = .idle
      · exact .inr (.inr (.inr ⟨⟨hs, hf⟩, rfl, by simp [triggerCall, hf, ha, hs, returned]⟩))
      · exact .inr (.inr (.inl ⟨hf, rfl, hs, by simp [triggerCall, hf, ha, hs, raiseFault, faulted]⟩))
  · exact .inl ⟨hf, by simp [triggerCall, hf, hung]⟩

/-- Why a harness invocation other than a call is refused though the engine is idle. -/
def refusalOf (i : Instr) (s : State) : Option Refusal :=
  match i with
  | .readBytes m => if s.par.responseCapacity < m.toNat then some .countAboveCapacity else none
  | .attempt => if s.par.retryLimit ≤ s.eng.attempt then some .attemptsUsedUp else none
  | _ => none

/-- Whether an instruction is a host call, which is allowed in every state (30_encoding.md R81). -/
def isCall : Instr → Bool
  | .trigger _ _ => true
  | .reasonShutdown => true
  | .reasonHalt => true
  | _ => false

/-- Every instruction that is no host call is a harness invocation. -/
theorem exec_invocation (i : Instr) (s : State) (h : isCall i = false) :
    ∃ run, exec i s = invoke (refusalOf i s) run s := by
  cases i <;> first | cases h; done | (simp only [exec, execConfigure, execReadByte, execWriteByte, execReadBytes,
    execWriteBytes, execChecksum, execBuildFrame, execExpectedAck, execCheckLength, execVerifyChecksum, execCompareAck,
    execResync, execAttempt, execSendCommand, execComputeDivisor, execReconfigure, execRunSequence,
    execFrameWatchdogKill, execFrameShutdownWait, execFramePowerOff, execCommandFrame, execAckResponse,
    execExpectedAckRef, execResyncPreamble, refusalOf]; exact ⟨_, rfl⟩)

/-- The three host calls. -/
theorem exec_call (i : Instr) (s : State) (h : isCall i = true) :
    ∃ r arg n, exec i s = .next (triggerCall r arg { s with env := { s.env with hostCalls := n } }) := by
  cases i <;> first | cases h; done | skip
  · exact ⟨_, _, s.env.hostCalls, rfl⟩
  · exact ⟨_, _, _, rfl⟩
  · exact ⟨_, _, _, rfl⟩

/-- What one step of the machine is. -/
theorem step_cases (s : State) :
    (∃ a, s.env.attachReq = some a ∧ step s = attach a s) ∨
    (∃ c, s.env.attachReq = none ∧ s.env.port = some c ∧
      step s = .next (triggerCall (hostReason s.par c.code) c.arg { s with env := { s.env with port := none } })) ∨
    (noRequest s ∧ s.env.ctx = .stuck ∧ step s = .next s) ∨
    (noRequest s ∧ s.env.ctx ≠ .stuck ∧ engineRunning s = true ∧ step s = microStep s) ∨
    (noRequest s ∧ s.env.ctx ≠ .stuck ∧ engineRunning s = false ∧
      ((fetch s = none ∧ step s = .next s) ∨ (∃ e, fetch s = some (.error e) ∧ step s = .refused (.undecodable e)) ∨
        (∃ i s1, fetch s = some (.ok (i, s1)) ∧ step s = exec i s1))) := by
  cases ha : s.env.attachReq with
  | some a => exact .inl ⟨a, rfl, by simp [step, ha]⟩
  | none =>
    cases hp : s.env.port with
    | some c => exact .inr (.inl ⟨c, rfl, rfl, by simp [step, ha, hp, exec, execTrigger]⟩)
    | none =>
      by_cases hs : s.env.ctx = .stuck
      · exact .inr (.inr (.inl ⟨⟨ha, hp⟩, hs, by simp [step, ha, hp, hs]⟩))
      · by_cases hr : engineRunning s = true
        · exact .inr (.inr (.inr (.inl ⟨⟨ha, hp⟩, hs, hr, by simp [step, ha, hp, hs, hr]⟩)))
        · refine .inr (.inr (.inr (.inr ⟨⟨ha, hp⟩, hs, by simpa using hr, ?_⟩)))
          rcases hf : fetch s with _ | e | ⟨i, s1⟩
          · exact .inl ⟨rfl, by simp [step, ha, hp, hs, hr, hf]⟩
          · exact .inr (.inl ⟨e, rfl, by simp [step, ha, hp, hs, hr, hf]⟩)
          · exact .inr (.inr ⟨i, s1, rfl, by simp [step, ha, hp, hs, hr, hf]⟩)

/-- Taking an instruction moves past its bytes and changes nothing else. -/
theorem fetch_ok (s s1 : State) (i : Instr) (h : fetch s = some (.ok (i, s1))) :
    ∃ item left rest, s.env.program = item :: rest ∧ decodeItem s.par item = .ok (i, left) ∧
      s1 = { s with env := { s.env with program := putBack item left rest } } := by
  unfold fetch at h
  split at h
  · cases h
  · rename_i item rest hp
    split at h
    · simp at h
    · rename_i j left hd
      simp only [Option.some.injEq, Except.ok.injEq, Prod.mk.injEq] at h
      obtain ⟨rfl, rfl⟩ := h
      exact ⟨item, left, rest, hp, hd, rfl⟩

/-- The parameter check refuses exactly what 00_scope.md R7 names. -/
theorem paramsValid_iff (p : Params) (base : Nat) : paramsValid p base = true ↔ ¬ breaksR7 p base := by
  have hc : ∀ q : Command → Prop, (∃ c, q c) ↔ q .watchdogKill ∨ q .shutdownWait ∨ q .powerOff := fun q =>
    ⟨fun ⟨c, h⟩ => by cases c <;> simp [h], fun h => by rcases h with h | h | h <;> exact ⟨_, h⟩⟩
  simp only [paramsValid, breaksR7, hc, PerCommand.get, Bool.and_eq_true, decide_eq_true_eq]
  omega

/-! ## Runs -/

theorem run_of_next (n : Nat) (s t : State) (h : step s = .next t) :
    Host.Core.run Sys2Proof.core (n + 1) s = Host.Core.run Sys2Proof.core n t := by
  have h' : Sys2Proof.core.step s = .next t := h
  simp [Host.Core.run, h']

/-- A run that answers a next state after a step has taken that step. -/
theorem run_succ_next (n : Nat) (s t : State) (h : Host.Core.run Sys2Proof.core (n + 1) s = .next t) :
    ∃ u, step s = .next u ∧ Host.Core.run Sys2Proof.core n u = .next t := by
  cases hs : step s with
  | next u => exact ⟨u, rfl, by rw [← run_of_next n s u hs]; exact h⟩
  | fault r => have h' : Sys2Proof.core.step s = .fault r := hs; simp [Host.Core.run, h'] at h
  | refused r => have h' : Sys2Proof.core.step s = .refused r := hs; simp [Host.Core.run, h'] at h

/-- A state that steps to itself is what every run from it reaches. -/
theorem run_of_quiet (s : State) (h : step s = .next s) (n : Nat) : Host.Core.run Sys2Proof.core n s = .next s := by
  induction n with
  | zero => rfl
  | succ n ih => rw [run_of_next n s s h, ih]

/-- Runs follow one another. -/
theorem runsTo_trans {s t u : State} (h : runsTo s t) (g : runsTo t u) : runsTo s u := by
  obtain ⟨n, hn⟩ := h
  obtain ⟨m, hm⟩ := g
  refine ⟨n + m, ?_⟩
  induction n generalizing s with
  | zero => cases hn; simpa using hm
  | succ n ih =>
    obtain ⟨v, hv, hr⟩ := run_succ_next n s t hn
    rw [Nat.succ_add, run_of_next _ s v hv]
    exact ih hr

/-- A drained line stays drained along the run. -/
theorem lineDrains_of_step (s t : State) (h : lineDrains s) (hs : step s = .next t) : lineDrains t :=
  fun n u hr hm hst => h (n + 1) u (by rw [run_of_next n s t hs]; exact hr) hm hst

end Sys2Proof.Machine
end

