-- ==== Sys2Proof/Laws/Engine.lean ====
section
/-! SUPPORT. What no row of the step table touches: the parameters, the Line Handle's inputs, the fault register, the
harness program and the host's requests (10_state.md R36). -/

namespace Sys2Proof.Machine

/-- Nothing outside the reach of the engine's own rows differs between two states. -/
structure SameSurroundings (s t : State) : Prop where
  par : t.par = s.par
  base : t.eng.base = s.eng.base
  tickRate : t.eng.tickRate = s.eng.tickRate
  fault : t.eng.fault = s.eng.fault
  program : t.env.program = s.env.program
  port : t.env.port = s.env.port
  attachReq : t.env.attachReq = s.env.attachReq
  hostCalls : t.env.hostCalls = s.env.hostCalls

theorem SameSurroundings.refl (s : State) : SameSurroundings s s := ⟨rfl, rfl, rfl, rfl, rfl, rfl, rfl, rfl⟩

theorem SameSurroundings.trans {s t u : State} (h : SameSurroundings s t) (g : SameSurroundings t u) : SameSurroundings s u :=
  ⟨g.par.trans h.par, g.base.trans h.base, g.tickRate.trans h.tickRate, g.fault.trans h.fault, g.program.trans h.program,
    g.port.trans h.port, g.attachReq.trans h.attachReq, g.hostCalls.trans h.hostCalls⟩

theorem emit_surroundings (e : Event) (s : State) : SameSurroundings s (emit e s) := ⟨rfl, rfl, rfl, rfl, rfl, rfl, rfl, rfl⟩
theorem lineRead_surroundings (r : LineReg) (s : State) : SameSurroundings s (lineRead r s) := ⟨rfl, rfl, rfl, rfl, rfl, rfl, rfl, rfl⟩
theorem lineWrite_surroundings (r : LineReg) (v : Byte) (s : State) : SameSurroundings s (lineWrite r v s) :=
  ⟨rfl, rfl, rfl, rfl, rfl, rfl, rfl, rfl⟩
theorem returnCall_surroundings (r : CallResult) (s : State) : SameSurroundings s (returnCall r s) :=
  ⟨rfl, rfl, rfl, rfl, rfl, rfl, rfl, rfl⟩
theorem goto_surroundings (st : MicroState) (s : State) : SameSurroundings s (goto st s) := ⟨rfl, rfl, rfl, rfl, rfl, rfl, rfl, rfl⟩
theorem finish_surroundings (v : RetVal) (s : State) : SameSurroundings s (finish v s) := ⟨rfl, rfl, rfl, rfl, rfl, rfl, rfl, rfl⟩
theorem beginTx_surroundings (x : TxSource) (s : State) : SameSurroundings s (beginTx x s) := ⟨rfl, rfl, rfl, rfl, rfl, rfl, rfl, rfl⟩
theorem beginRx_surroundings (x : RxPurpose) (s : State) : SameSurroundings s (beginRx x s) := ⟨rfl, rfl, rfl, rfl, rfl, rfl, rfl, rfl⟩
theorem beginAttempt_surroundings (s : State) : SameSurroundings s (beginAttempt s) := ⟨rfl, rfl, rfl, rfl, rfl, rfl, rfl, rfl⟩
theorem commandStarted_surroundings (p : List Byte) (s : State) : SameSurroundings s (commandStarted p s) :=
  ⟨rfl, rfl, rfl, rfl, rfl, rfl, rfl, rfl⟩

theorem beginCommand_surroundings (c : Command) (s t : State) (h : beginCommand c s = .ok t) : SameSurroundings s t := by
  rw [beginCommand_eq] at h
  split at h
  · cases h
  · cases h; exact ⟨rfl, rfl, rfl, rfl, rfl, rfl, rfl, rfl⟩

theorem attemptEnd_surroundings (o : AttemptOutcome) (s : State) : SameSurroundings s (attemptEnd o s) := by
  rcases attemptEnd_cases o s with ⟨-, h⟩ | ⟨-, -, h⟩ | ⟨-, -, -, h⟩ | ⟨-, -, -, h⟩ <;> rw [h]
  · exact finish_surroundings _ _
  · exact goto_surroundings _ _
  · exact beginAttempt_surroundings _
  · exact goto_surroundings _ _

theorem txDone_surroundings (s : State) : SameSurroundings s (txDone s) := by
  rcases txDone_cases s with ⟨h, -⟩ | ⟨-, ⟨-, h⟩ | ⟨-, h⟩⟩ <;> rw [h]
  · exact finish_surroundings _ _
  · exact beginRx_surroundings _ _
  · exact goto_surroundings _ _

theorem commandDone_surroundings (r : CmdResult) (s t : State) (h : commandDone r s = .ok t) : SameSurroundings s t := by
  rcases commandDone_ok r s t h with ⟨-, rfl⟩ | ⟨-, c, -, hb⟩ | ⟨-, -, rfl⟩ | ⟨-, -, -, rfl⟩
  · exact finish_surroundings _ _
  · have := beginCommand_surroundings c _ t hb
    exact ⟨this.1, this.2, this.3, this.4, this.5, this.6, this.7, this.8⟩
  · exact ⟨rfl, rfl, rfl, rfl, rfl, rfl, rfl, rfl⟩
  · exact ⟨rfl, rfl, rfl, rfl, rfl, rfl, rfl, rfl⟩

theorem rxDone_surroundings (s t : State) (h : rxDone s = .ok t) : SameSurroundings s t := by
  rcases rxDone_ok s t h with ⟨-, rfl⟩ | ⟨-, rfl⟩ | ⟨-, rfl⟩ | ⟨-, o, -, rfl⟩ | ⟨-, -, rfl⟩ | ⟨-, -, h⟩
  · exact finish_surroundings _ _
  · exact finish_surroundings _ _
  · exact finish_surroundings _ _
  · exact finish_surroundings _ _
  · exact attemptEnd_surroundings _ _
  · rcases h with ⟨-, rfl⟩ | ⟨-, rfl⟩ | ⟨-, rfl⟩ | ⟨-, rfl⟩
    · exact goto_surroundings _ _
    · exact goto_surroundings _ _
    · exact goto_surroundings _ _
    · exact attemptEnd_surroundings _ _

/-- The state after a configuration write that is not the last. -/
def cfgWritten (r : LineReg) (v : Byte) (s : State) : State :=
  { lineWrite r v s with eng := { (lineWrite r v s).eng with cfgJ := s.eng.cfgJ + 1 } }

/-- The state after the last configuration write: the configuration is recorded (41_byte_transport.md R100). -/
def cfgRecorded (d : Half) (f : Byte) (s : State) : State :=
  { s with eng := { s.eng with cfgDivisor := some d, cfgFormat := some f } }

/-- `CFG`, when it does not fault: the write, and then either the next write's turn or what follows the last. -/
theorem cfgStep_ok (s t : State) (h : cfgStep s = .ok t) :
    ∃ r v, (cfgSeq s.par (cfgOperands s).1 (cfgOperands s).2)[s.eng.cfgJ]? = some (r, some v) ∧
      ((s.eng.cfgJ + 1 ≠ cfgLen s.par ∧ t = cfgWritten r v s) ∨
       (s.eng.cfgJ + 1 = cfgLen s.par ∧ ∃ d, (cfgOperands s).1 = some d ∧
          ((((∃ a b, s.env.ctx = .configure a b) ∨ s.env.ctx = .reconfigure) ∧
              t = finish .noValue (cfgRecorded d (cfgOperands s).2 (cfgWritten r v s))) ∨
           (((∀ a b, s.env.ctx ≠ .configure a b) ∧ s.env.ctx ≠ .reconfigure) ∧
              beginCommand .watchdogKill (cfgRecorded d (cfgOperands s).2 (cfgWritten r v s)) = .ok t)))) := by
  unfold cfgStep at h
  rcases hw : (cfgSeq s.par (cfgOperands s).1 (cfgOperands s).2)[s.eng.cfgJ]? with _ | ⟨r, _ | v⟩
  · rw [hw] at h; cases h
  · rw [hw] at h; cases h
  · rw [hw] at h
    refine ⟨r, v, rfl, ?_⟩
    change (if s.eng.cfgJ + 1 = cfgLen s.par then _ else Except.ok (cfgWritten r v s)) = _ at h
    by_cases hl : s.eng.cfgJ + 1 = cfgLen s.par
    · refine .inr ⟨hl, ?_⟩
      rw [if_pos hl] at h
      cases hd : (cfgOperands s).1 with
      | none => rw [hd] at h; cases h
      | some d =>
        refine ⟨d, rfl, ?_⟩
        rw [hd] at h
        cases hc : s.env.ctx <;> rw [hc] at h <;>
          first
          | exact .inl ⟨by simp, (Except.ok.inj h).symm⟩
          | exact .inr ⟨by simp, h⟩
    · rw [if_neg hl] at h
      exact .inl ⟨hl, (Except.ok.inj h).symm⟩

/-- `TX_WRITE`, when it does not fault. -/
theorem txWriteStep_ok (s t : State) (h : txWriteStep s = .ok t) :
    ∃ b, txByte s = .ok b ∧
      (((∃ x, s.env.ctx = .writeByte x) ∧ t = txDone (lineWrite .data b s)) ∨
       ((∀ x, s.env.ctx ≠ .writeByte x) ∧ ∃ u, u = { lineWrite .data b s with eng := { s.eng with txi := s.eng.txi + 1 } } ∧
          ((s.eng.txi + 1 = txLen s ∧ t = txDone u) ∨ (s.eng.txi + 1 ≠ txLen s ∧ t = goto .txPoll u)))) := by
  unfold txWriteStep at h
  cases hb : txByte s with
  | error k => simp [hb] at h
  | ok b =>
    refine ⟨b, rfl, ?_⟩
    by_cases hw : ∃ x, s.env.ctx = .writeByte x
    · obtain ⟨x, hx⟩ := hw
      simp only [hb, hx, Except.ok.injEq] at h
      exact .inl ⟨⟨x, hx⟩, h.symm⟩
    · refine .inr ⟨fun x hx => hw ⟨x, hx⟩, _, rfl, ?_⟩
      by_cases hl : s.eng.txi + 1 = txLen s
      · left
        refine ⟨hl, ?_⟩
        cases hc : s.env.ctx <;> simp only [hb, hc, if_pos hl] at h <;>
          first | exact (Except.ok.inj h).symm | exact absurd ⟨_, hc⟩ hw
      · right
        refine ⟨hl, ?_⟩
        cases hc : s.env.ctx <;> simp only [hb, hc, if_neg hl] at h <;>
          first | exact (Except.ok.inj h).symm | exact absurd ⟨_, hc⟩ hw

/-- `RX_POLL`, when it does not fault. -/
theorem rxPollStep_ok (s t : State) (h : rxPollStep s = .ok t) :
    (dataReady s.par (lineByte s) = true ∧ t = goto .rxData (lineRead .lsr s)) ∨
    (dataReady s.par (lineByte s) = false ∧ s.eng.k = s.par.readPollLimit ∧ rxDone (lineRead .lsr s) = .ok t) ∨
    (dataReady s.par (lineByte s) = false ∧ s.eng.k ≠ s.par.readPollLimit ∧ t = goto .rxSleep (lineRead .lsr s)) := by
  unfold rxPollStep at h
  cases hd : dataReady s.par (lineByte s) with
  | true => simp only [hd, if_true, Except.ok.injEq] at h; exact .inl ⟨rfl, h.symm⟩
  | false =>
    by_cases hk : s.eng.k = s.par.readPollLimit
    · simp only [hd, hk, if_true] at h; exact .inr (.inl ⟨rfl, hk, h⟩)
    · rw [hd, if_neg (by simp), if_neg hk] at h; exact .inr (.inr ⟨rfl, hk, (Except.ok.inj h).symm⟩)

/-- `RX_DATA`, when it does not fault. -/
theorem rxDataStep_ok (s t : State) (h : rxDataStep s = .ok t) :
    (s.env.ctx = .readByte ∧ t = finish (.received (some (lineByte s))) (lineRead .data s)) ∨
    (s.env.ctx ≠ .readByte ∧ s.eng.rcount + 1 = rxMax s ∧ rxDone (byteStored s) = .ok t) ∨
    (s.env.ctx ≠ .readByte ∧ s.eng.rcount + 1 ≠ rxMax s ∧
      t = { byteStored s with eng := { (byteStored s).eng with k := 1, st := .rxPoll } }) := by
  unfold rxDataStep at h
  by_cases hr : s.env.ctx = .readByte
  · simp only [hr, Except.ok.injEq] at h; exact .inl ⟨hr, h.symm⟩
  · refine .inr ?_
    by_cases hl : s.eng.rcount + 1 = rxMax s
    · left
      refine ⟨hr, hl, ?_⟩
      cases hc : s.env.ctx <;> simp only [hc, if_pos hl] at h <;> first | exact absurd hc hr | exact h
    · right
      refine ⟨hr, hl, ?_⟩
      cases hc : s.env.ctx <;> simp only [hc, if_neg hl] at h <;>
        first | exact absurd hc hr | exact (Except.ok.inj h).symm

/-- `DIAG_NAK`, when it does not fault. -/
theorem diagNakStep_ok (s t : State) (h : diagNakStep s = .ok t) :
    ∃ o, o ≠ .acked ∧ o ≠ .short ∧ t = attemptEnd o (diag .nak [] s) := by
  unfold diagNakStep at h
  cases hc : s.env.ctx <;> simp only [hc, Except.ok.injEq] at h <;>
    first
    | exact ⟨.nak, by simp, by simp, h.symm⟩
    | (cases hg : checksumGood s.eng.rbuf with
        | error k => simp [hg] at h
        | ok b =>
          cases b <;> simp only [hg, Except.ok.injEq] at h
          · exact ⟨.badCsum, by simp, by simp, h.symm⟩
          · exact ⟨.nak, by simp, by simp, h.symm⟩)

/-- No row of the step table touches the surroundings. -/
theorem microRow_surroundings (s t : State) (h : microRow s = .ok t) : SameSurroundings s t := by
  unfold microRow at h
  cases hst : s.eng.st <;> simp only [hst, Except.ok.injEq] at h
  case idle => rw [← h]; exact .refl _
  case done => rw [← h]; exact .refl _
  case cfg =>
    obtain ⟨r, v, -, ⟨-, rfl⟩ | ⟨-, d, -, ⟨-, rfl⟩ | ⟨-, hb⟩⟩⟩ := cfgStep_ok s t h
    · exact ⟨rfl, rfl, rfl, rfl, rfl, rfl, rfl, rfl⟩
    · exact ⟨rfl, rfl, rfl, rfl, rfl, rfl, rfl, rfl⟩
    · have := beginCommand_surroundings _ _ _ hb
      exact ⟨this.1, this.2, this.3, this.4, this.5, this.6, this.7, this.8⟩
  case txPoll =>
    rw [← h]; unfold txPollStep; split
    · exact (lineRead_surroundings _ _).trans (goto_surroundings _ _)
    · exact lineRead_surroundings _ _
  case txWrite =>
    obtain ⟨b, -, ⟨-, rfl⟩ | ⟨-, u, rfl, ⟨-, rfl⟩ | ⟨-, rfl⟩⟩⟩ := txWriteStep_ok s t h
    · exact (lineWrite_surroundings _ _ _).trans (txDone_surroundings _)
    · refine SameSurroundings.trans ?_ (txDone_surroundings _)
      exact ⟨rfl, rfl, rfl, rfl, rfl, rfl, rfl, rfl⟩
    · exact ⟨rfl, rfl, rfl, rfl, rfl, rfl, rfl, rfl⟩
  case rxPoll =>
    rcases rxPollStep_ok s t h with ⟨-, rfl⟩ | ⟨-, -, hd⟩ | ⟨-, -, rfl⟩
    · exact (lineRead_surroundings _ _).trans (goto_surroundings _ _)
    · exact (lineRead_surroundings _ _).trans (rxDone_surroundings _ _ hd)
    · exact (lineRead_surroundings _ _).trans (goto_surroundings _ _)
  case rxSleep => rw [← h]; exact ⟨rfl, rfl, rfl, rfl, rfl, rfl, rfl, rfl⟩
  case rxData =>
    rcases rxDataStep_ok s t h with ⟨-, rfl⟩ | ⟨-, -, hd⟩ | ⟨-, -, rfl⟩
    · exact (lineRead_surroundings _ _).trans (finish_surroundings _ _)
    · refine SameSurroundings.trans ?_ (rxDone_surroundings _ _ hd)
      exact ⟨rfl, rfl, rfl, rfl, rfl, rfl, rfl, rfl⟩
    · exact ⟨rfl, rfl, rfl, rfl, rfl, rfl, rfl, rfl⟩
  case diagShort => rw [← h]; exact ⟨rfl, rfl, rfl, rfl, rfl, rfl, rfl, rfl⟩
  case settleFlush => rw [← h]; exact ⟨rfl, rfl, rfl, rfl, rfl, rfl, rfl, rfl⟩
  case diagCsum =>
    unfold diagCsumStep at h
    split at h
    · cases h
    · cases h; exact ⟨rfl, rfl, rfl, rfl, rfl, rfl, rfl, rfl⟩
  case diagNak =>
    obtain ⟨o, -, -, rfl⟩ := diagNakStep_ok s t h
    exact (emit_surroundings _ _).trans (attemptEnd_surroundings _ _)
  case postOk => exact (emit_surroundings _ _).trans (commandDone_surroundings _ _ _ h)
  case diagExh => rw [← h]; exact ⟨rfl, rfl, rfl, rfl, rfl, rfl, rfl, rfl⟩
  case exhSleep => exact (emit_surroundings _ _).trans (commandDone_surroundings _ _ _ h)
  case returning => rw [← h]; exact ⟨rfl, rfl, rfl, rfl, rfl, rfl, rfl, rfl⟩

end Sys2Proof.Machine
end

