-- ==== Sys2Proof/Laws/PerInstr.lean ====
section
/-! SUPPORT. Statements made for every instruction: one lemma for each constructor. -/

namespace Sys2Proof.Laws

/-- An instruction's item has at least one byte, so an item of an encoded program is never empty (30_encoding.md R82). -/
def EncodingNonempty.Statement (i : Instr) : Prop := ∀ par : Params, i.wf par = true → (encode par i).bytes ≠ []

/-- A frame ends in its checksum byte, so it is not empty (30_encoding.md R71). -/
theorem nonempty_of_append_singleton (p : List Byte) (c : Byte) : p ++ [c] ≠ [] :=
  List.append_ne_nil_of_right_ne_nil p (List.cons_ne_nil c [])

theorem EncodingNonempty.configure (d : Half) (f : Byte) :
    EncodingNonempty.Statement (.configure d f) :=
  fun _ _ => List.cons_ne_nil _ _

theorem EncodingNonempty.readByte :
    EncodingNonempty.Statement .readByte :=
  fun _ _ => List.cons_ne_nil _ _

theorem EncodingNonempty.writeByte (b : Byte) :
    EncodingNonempty.Statement (.writeByte b) :=
  fun _ _ => List.cons_ne_nil _ _

theorem EncodingNonempty.readBytes (m : Byte) :
    EncodingNonempty.Statement (.readBytes m) :=
  fun _ _ => List.cons_ne_nil _ _

theorem EncodingNonempty.writeBytes (bs : List Byte) :
    EncodingNonempty.Statement (.writeBytes bs) :=
  fun _ _ => List.cons_ne_nil _ _

theorem EncodingNonempty.checksum (bs : List Byte) :
    EncodingNonempty.Statement (.checksum bs) :=
  fun _ _ => List.cons_ne_nil _ _

theorem EncodingNonempty.buildFrame (p : List Byte) :
    EncodingNonempty.Statement (.buildFrame p) :=
  fun _ _ => List.cons_ne_nil _ _

theorem EncodingNonempty.expectedAck (p : List Byte) :
    EncodingNonempty.Statement (.expectedAck p) :=
  fun _ _ => List.cons_ne_nil _ _

theorem EncodingNonempty.checkLength :
    EncodingNonempty.Statement .checkLength :=
  fun _ _ => List.cons_ne_nil _ _

theorem EncodingNonempty.verifyChecksum :
    EncodingNonempty.Statement .verifyChecksum :=
  fun _ _ => List.cons_ne_nil _ _

theorem EncodingNonempty.compareAck :
    EncodingNonempty.Statement .compareAck :=
  fun _ _ => List.cons_ne_nil _ _

theorem EncodingNonempty.resync :
    EncodingNonempty.Statement .resync :=
  fun _ _ => List.cons_ne_nil _ _

theorem EncodingNonempty.attempt :
    EncodingNonempty.Statement .attempt :=
  fun _ _ => List.cons_ne_nil _ _

theorem EncodingNonempty.sendCommand (p : List Byte) :
    EncodingNonempty.Statement (.sendCommand p) :=
  fun _ _ => List.cons_ne_nil _ _

theorem EncodingNonempty.trigger (r : Reason) (arg : Word) :
    EncodingNonempty.Statement (.trigger r arg) :=
  fun _ _ => List.cons_ne_nil _ _

theorem EncodingNonempty.computeDivisor (t : Word) :
    EncodingNonempty.Statement (.computeDivisor t) :=
  fun _ _ => List.cons_ne_nil _ _

theorem EncodingNonempty.reconfigure :
    EncodingNonempty.Statement .reconfigure :=
  fun _ _ => List.cons_ne_nil _ _

theorem EncodingNonempty.runSequence :
    EncodingNonempty.Statement .runSequence :=
  fun _ _ => List.cons_ne_nil _ _

theorem EncodingNonempty.frameWatchdogKill :
    EncodingNonempty.Statement .frameWatchdogKill :=
  fun _ _ => nonempty_of_append_singleton _ _

theorem EncodingNonempty.frameShutdownWait :
    EncodingNonempty.Statement .frameShutdownWait :=
  fun _ _ => nonempty_of_append_singleton _ _

theorem EncodingNonempty.framePowerOff :
    EncodingNonempty.Statement .framePowerOff :=
  fun _ _ => nonempty_of_append_singleton _ _

theorem EncodingNonempty.commandFrame (p : List Byte) :
    EncodingNonempty.Statement (.commandFrame p) :=
  fun _ _ => nonempty_of_append_singleton _ _

theorem EncodingNonempty.ackResponse (a : Byte) (tail : List Byte) :
    EncodingNonempty.Statement (.ackResponse a tail) :=
  fun _ _ => List.cons_ne_nil _ _

theorem EncodingNonempty.expectedAckRef (a : Byte) :
    EncodingNonempty.Statement (.expectedAckRef a) :=
  fun _ _ => List.cons_ne_nil _ _

theorem EncodingNonempty.resyncPreamble :
    EncodingNonempty.Statement .resyncPreamble :=
  fun par h he => by
    have h : 1 ≤ par.responseCapacity := of_decide_eq_true h
    have hl : par.responseCapacity = 0 := by simpa [encode, preambleOf] using he
    omega

theorem EncodingNonempty.reasonShutdown :
    EncodingNonempty.Statement .reasonShutdown :=
  fun _ _ => List.cons_ne_nil _ _

theorem EncodingNonempty.reasonHalt :
    EncodingNonempty.Statement .reasonHalt :=
  fun _ _ => List.cons_ne_nil _ _

end Sys2Proof.Laws
end

