-- ==== Sys2Proof/Tests/Slice0.lean ====
section
/-! SUPPORT. Tests: ill-formed terms refused, words written out from the spec decoded, one step of each instruction, and a
witness for the hypotheses of each statement. Expected values are those of spec/95_test_vectors.md and of the rules'
own examples, or counted by hand from the rules; none is the model's own answer. -/

namespace Sys2Proof.Tests

open Sys2Proof.Machine

/-! ## Small states -/

/-- A small parameter set: one attempt, four response bytes, one poll. -/
def small : Params := { Params.reference with
  retryLimit := 2, responseCapacity := 4, readPollLimit := 1, maxPayloadLen := 3
  idxDll := 6, idxDlm := 7, reasonCodeShutdown := 3, reasonCodeHalt := 4 }

/-- Right after attach with the small set. -/
def attached : State := { par := small, eng := Engine.attached small 0x1000 60000000, env := Env.initial }

/-- The same with line answers to come. -/
def withLine (ws : List Word) (s : State) : State := { s with env := { s.env with line := ws } }

/-- The engine at a micro-state of a command, with a frame and an acknowledgement. -/
def inCommand (st : MicroState) : State := { attached with eng := { attached.eng with
  st := st, attempt := 1, frame := [some 0x00, some 0x0C, some 0xF4, none], frameLen := 3
  ack := [some 0x01, some 0x0C, some 0x00], k := 1, divisor := some 98 } }

/-- The same with a response in the buffer. -/
def answered (b0 b1 b2 b3 : Byte) (st : MicroState) : State := { inCommand st with eng := { (inCommand st).eng with
  rbuf := [some b0, some b1, some b2, some b3], rcount := 4 } }

/-- What an outcome's next state shows, if there is one. -/
def after {α : Type} (o : Host.Outcome State Fault Refusal) (f : State → α) : Option α :=
  match o with
  | .next t => some (f t)
  | _ => none

/-- A refusal, if the outcome is one. -/
def refusal (o : Host.Outcome State Fault Refusal) : Option Refusal :=
  match o with
  | .refused r => some r
  | _ => none

/-! ## Well-formedness: each check refuses an ill-formed term -/

/-- A list one byte too long for its count byte. -/
def tooLong : List Byte := List.replicate 256 0

theorem smoke_list_operands :
    [Instr.writeBytes tooLong, .checksum tooLong, .buildFrame tooLong, .expectedAck tooLong, .sendCommand tooLong].all
      (fun i => !i.wf Params.reference) = true := by decide +kernel
theorem smoke_reason_codes :
    [Instr.trigger (.other 1) 0, .trigger (.other 2) 0, .trigger (.other 256) 0].all (fun i => !i.wf Params.reference) = true := by decide
theorem smoke_fixed_frames :
    [Instr.commandFrame [0x01, 0x35, 0x00], .commandFrame [0x00, 0x0C], .commandFrame [0x00, 0x06]].all
      (fun i => !i.wf Params.reference) = true := by decide
/-- With two equal payloads the later row has no encoding of its own; the preamble of an empty buffer has no bytes. -/
theorem smoke_rows_without_an_encoding :
    Instr.framePowerOff.wf { Params.reference with payload := ⟨[1, 2], [3, 4], [3, 4]⟩ } = false ∧
    Instr.frameShutdownWait.wf { Params.reference with payload := ⟨[1, 2], [1, 2], [3, 4]⟩ } = false ∧
    Instr.resyncPreamble.wf { Params.reference with responseCapacity := 0 } = false := by decide
theorem smoke_response_length : (Instr.ackResponse 0 (List.replicate 252 0)).wf Params.reference = false := by decide +kernel
theorem smoke_boundaries_accepted :
    [Instr.sendCommand (List.replicate 255 0), .trigger (.other 255) 0, .trigger (.other 0) 0, .commandFrame [],
      .ackResponse 0 (List.replicate 251 0), .configure 0xFFFF 0].all (fun i => i.wf Params.reference) = true := by decide +kernel

/-! ## Decoding: words written out from 30_encoding.md R71 to R75, R80, R82 -/

/-- The decoded instruction of an invocation's bytes. -/
def reads (bs : List Byte) : Option Instr := (decodeItem Params.reference ⟨.invocation, bs⟩).toOption.map Prod.fst

theorem decode_configure : reads [0x01, 0x62, 0x00, 0x1B] = some (.configure 0x0062 0x1B) := by decide
theorem decode_configure_low_byte_first : reads [0x01, 0x34, 0x12, 0x56] = some (.configure 0x1234 0x56) := by decide
theorem decode_readByte : reads [0x02] = some .readByte := by decide
theorem decode_writeByte : reads [0x03, 0x5A] = some (.writeByte 0x5A) := by decide
theorem decode_readBytes : reads [0x04, 0x28] = some (.readBytes 40) := by decide
theorem decode_writeBytes : reads [0x05, 0x03, 0x00, 0x0C, 0xF4] = some (.writeBytes [0x00, 0x0C, 0xF4]) := by decide
theorem decode_checksum : reads [0x10, 0x00] = some (.checksum []) := by decide
theorem decode_buildFrame : reads [0x11, 0x02, 0x00, 0x0C] = some (.buildFrame [0x00, 0x0C]) := by decide
theorem decode_expectedAck : reads [0x12, 0x03, 0x01, 0x35, 0x00] = some (.expectedAck [0x01, 0x35, 0x00]) := by decide
theorem decode_checkLength : reads [0x13] = some .checkLength := by decide
theorem decode_verifyChecksum : reads [0x14] = some .verifyChecksum := by decide
theorem decode_compareAck : reads [0x15] = some .compareAck := by decide
theorem decode_resync : reads [0x16] = some .resync := by decide
theorem decode_attempt : reads [0x17] = some .attempt := by decide
theorem decode_sendCommand : reads [0x18, 0x02, 0x00, 0x0C] = some (.sendCommand [0x00, 0x0C]) := by decide
theorem decode_trigger_halt : reads [0x20, 0x02, 0x07, 0x00, 0x00, 0x00] = some (.trigger .halt 7) := by decide
theorem decode_trigger_other : reads [0x20, 0x05, 0x78, 0x56, 0x34, 0x12] = some (.trigger (.other 5) 0x12345678) := by decide
theorem decode_computeDivisor : reads [0x21, 0x00, 0x87, 0x93, 0x03] = some (.computeDivisor 60000000) := by decide
theorem decode_reconfigure : reads [0x22] = some .reconfigure := by decide
theorem decode_runSequence : reads [0x23] = some .runSequence := by decide
theorem decode_unassigned : [0x00, 0x06, 0x0F, 0x19, 0x1F, 0x24, 0xFF].all (fun l => reads [l, 0, 0, 0, 0, 0] = none) = true := by
  decide
theorem decode_truncated : [[0x01, 0x62, 0x00], [0x03], [0x05, 0x02, 0x00], [0x20, 0x01, 0, 0, 0], [0x21, 0, 0, 0]].all
    (fun bs => reads bs = none) = true := by decide

/-- The decoded instruction of a wire item. -/
def hears (f : WordFormat) (bs : List Byte) : Option Instr := (decodeItem Params.reference ⟨f, bs⟩).toOption.map Prod.fst

theorem decode_frames :
    hears .commandFrame [0x01, 0x35, 0x00, 0xCA] = some .frameWatchdogKill ∧
    hears .commandFrame [0x00, 0x0C, 0xF4] = some .frameShutdownWait ∧
    hears .commandFrame [0x00, 0x06, 0xFA] = some .framePowerOff ∧
    hears .commandFrame [0x80, 0x80, 0x00] = some (.commandFrame [0x80, 0x80]) ∧
    hears .commandFrame [0x01, 0x35, 0x00, 0xCB] = none := by decide
theorem decode_responses :
    hears .response [0x01, 0x35, 0x00, 0xCA, 0xFF, 0xFF] = some (.ackResponse 0x35 [0xFF, 0xFF]) ∧
    hears .response [0x01, 0x35, 0x00, 0xCB] = none ∧ hears .response [0x01, 0x35, 0x00] = none := by decide
theorem decode_reference : hears .reference [0x01, 0x0C, 0x00] = some (.expectedAckRef 0x0C) := by decide
/-- Under other payloads the same bytes are a general frame, and the fixed command's own bytes are its row (30_encoding.md R75). -/
theorem decode_follows_the_parameters :
    decodeFrame { small with payload := ⟨[0x00, 0x05], [0x00, 0x0C], [0x00, 0x06]⟩ } [0x01, 0x35, 0x00, 0xCA] =
      .ok (.commandFrame [0x01, 0x35, 0x00]) ∧
    decodeFrame { small with payload := ⟨[0x00, 0x05], [0x00, 0x0C], [0x00, 0x06]⟩ } [0x00, 0x05, 0xFB] = .ok .frameWatchdogKill ∧
    decodePreamble { small with flushByte := 0xAA } [0xAA, 0xAA, 0xAA, 0xAA] = .ok .resyncPreamble := ⟨rfl, rfl, rfl⟩
theorem decode_preamble : hears .preamble (List.replicate 40 0xFF) = some .resyncPreamble := by decide
theorem decode_reasons :
    hears .reason [0x01] = some .reasonShutdown ∧ hears .reason [0x02] = some .reasonHalt ∧ hears .reason [0x03] = none := by
  decide

/-- The words of spec/opcode_table.json, as numbers. -/
theorem decode_table_words :
    decodeTableWord 32 20250826 = some .frameWatchdogKill ∧ decodeTableWord 24 3316 = some .frameShutdownWait ∧
    decodeTableWord 24 1786 = some .framePowerOff ∧ decodeTableWord 24 0x013500 = some (.expectedAckRef 0x35) ∧
    decodeTableWord 32 0x010C00F3 = some (.ackResponse 0x0C []) ∧ decodeTableWord 320 (16 ^ 80 - 1) = some .resyncPreamble ∧
    decodeTableWord 8 0x01 = some (.configure 0 0) ∧ decodeTableWord 8 0x18 = some (.sendCommand []) ∧
    decodeTableWord 8 0x20 = some (.trigger (.other 0) 0) ∧ decodeTableWord 8 0x24 = none := by decide +kernel

/-! ## Text: the examples of 30_encoding.md R84 and R86 -/

theorem text_send_command : parseLine "SEND_COMMAND [00 0C] ; wait".toList = .invocation (.sendCommand [0x00, 0x0C]) := by decide
theorem text_trigger_other : parseLine "TRIGGER OTHER(0x05), 0".toList = .invocation (.trigger (.other 5) 0) := by decide
theorem text_writes_what_it_reads :
    instrText (.configure 0x0062 0x1B) = some "CONFIGURE 0x0062, 0x1B".toList ∧
    traceText [.rd .lsr 0x21, .wr .data 0x01, .sleep 1] = "RD LSR 0x21; WR DATA 0x01; SLEEP 1".toList := by decide

/-! ## One step of each instruction -/

/-- V-BT-1, V-BT-2. -/
theorem configure_sequences :
    configureEvents small 0x1B4F 0x1B =
      [.wr .lcr 0x83, .wr .dll 0x4F, .wr .dlm 0x1B, .wr .lcr 0x1B, .wr .ier 0x00, .wr .fcr 0x07, .wr .mcr 0x00] ∧
    configureEvents { small with lineBinding := .named } 0x0062 0x1B =
      [.wr .lcr 0x1B, .wr .dll 0x62, .wr .dlm 0x00, .wr .ier 0x00, .wr .fcr 0x07, .wr .mcr 0x00] := by decide
/-- The first write of a harness `CONFIGURE`, at the address of `LCR` (20_memory.md R52). -/
theorem configure_first_step :
    after (microStep { attached with
        eng := { attached.eng with st := .cfg }, env := { attached.env with ctx := .configure 0x62 0x1B } })
      (fun t => (t.env.trace, t.env.bus, t.eng.cfgJ)) = some ([.wr .lcr 0x83], [⟨true, 0x100C, 32, 0x83⟩], 1) := by decide
/-- V-BT-3, second row. -/
theorem readByte_second_poll :
    bigReadByte Params.reference 10 [0x20, 0x21, 0x07] =
      some (some 0x07, [.rd .lsr 0x20, .sleep 1, .rd .lsr 0x21, .rd .data 0x07], []) := by decide
/-- V-BT-3, last row: one poll, no sleep, a timeout. -/
theorem readByte_timeout :
    after (microStep { attached with
        eng := { attached.eng with st := .rxPoll, k := 1 }, env := { attached.env with line := [0x20], ctx := .readByte } })
      (fun t => (t.env.trace, t.env.ret, t.eng.st)) = some ([.rd .lsr 0x20], .received none, .idle) := by decide
/-- V-BT-4, third row: DR is ignored. -/
theorem writeByte_ready : bigWriteByte Params.reference 0x5A [0x21] = some ([.rd .lsr 0x21, .wr .data 0x5A], []) := by decide
theorem writeByte_starts : after (exec (.writeByte 0x5A) attached) (fun t => (t.eng.st, t.env.ctx)) =
    some (.txPoll, .writeByte 0x5A) := by decide
/-- V-BT-5: a count of 0 makes no access; two bytes fill a count of 2 with no timeout. -/
theorem readBytes_zero : after (exec (.readBytes 0) attached) (fun t => (t.env.ret, t.env.trace)) =
    some (.response [none, none, none, none] 0, []) := by decide
theorem readBytes_two : (bigReadBytes small 2 [0x21, 0x01, 0x21, 0x35, 0x21]).map (fun r => (r.1, r.2.2)) =
    some ([0x01, 0x35], [0x21]) := by decide
/-- V-BT-6. -/
theorem writeBytes_frame : (bigWriteBytes small [0x00, 0x0C, 0xF4] [0x20, 0x20, 0x20]).map Prod.fst =
    some [.rd .lsr 0x20, .wr .data 0x00, .rd .lsr 0x20, .wr .data 0x0C, .rd .lsr 0x20, .wr .data 0xF4] := by decide
theorem writeBytes_empty : after (exec (.writeBytes []) attached) (fun t => (t.eng.st, t.env.trace)) = some (.idle, []) := by
  decide
/-- 42_frame_protocol.md R120. -/
theorem checksum_example : after (exec (.checksum [0x01, 0x35, 0x00]) attached) (fun t => t.env.ret) = some (.byte 0xCA) := by decide
theorem checksum_wraps : checksumOf [0x80, 0x80] = 0x00 ∧ checksumOf [] = 0x00 := by decide
/-- 42_frame_protocol.md R121; an old byte past the frame stays. -/
theorem buildFrame_example :
    after (exec (.buildFrame [0x00]) { attached with eng := { attached.eng with frame := [some 9, some 9, some 9, some 9] } })
      (fun t => (t.eng.frame, t.eng.frameLen)) = some ([some 0x00, some 0x00, some 9, some 9], 2) := by decide
theorem buildFrame_too_long : after (exec (.buildFrame [1, 2, 3, 4]) attached) (fun t => (t.eng.fault, t.env.trace)) =
    some (0x82, [.fault .badPayload]) := by decide
/-- 42_frame_protocol.md R122. -/
theorem expectedAck_example : after (exec (.expectedAck [0x01, 0x35, 0x00]) attached) (fun t => t.eng.ack) =
    some [some 0x01, some 0x35, some 0x00] := by decide
theorem expectedAck_short : after (exec (.expectedAck [0x00]) attached) (fun t => status t.eng) = some 0x82000000 := by decide
/-- V-FP-4. -/
theorem checkLength_threshold :
    after (exec .checkLength { attached with eng := { attached.eng with rcount := 3 } }) (fun t => t.env.ret) =
      some (.length true) ∧
    after (exec .checkLength { attached with eng := { attached.eng with rcount := 4 } }) (fun t => t.env.ret) =
      some (.length false) := by decide
/-- V-FP-5. -/
theorem verifyChecksum_rows :
    [[0x01, 0x35, 0x00, 0xCA], [0x00, 0x00, 0x00, 0x00], [0xFF, 0x01, 0x00, 0x00], [0x02, 0x35, 0x00, 0xC9]].map
      (fun bs : List Byte => (checksumGood (bs.map some)).toOption) = List.replicate 4 (some true) ∧
    (checksumGood [some 0x01, some 0x35, some 0x00, some 0xCB]).toOption = some false := by decide
theorem verifyChecksum_unwritten : after (exec .verifyChecksum attached) (fun t => t.eng.fault) = some 0x83 := by decide
/-- V-FP-6, and the status of 95_test_vectors.md section 5. -/
theorem compareAck_rows :
    [[0x01, 0x35, 0x00], [0x00, 0x35, 0x01], [0x01, 0x0C, 0x00], [0x02, 0x35, 0x00]].map
      (fun bs : List Byte => (ackMatches (bs.map some) [some 0x01, some 0x35, some 0x00]).toOption) =
      [some true, some false, some false, some false] := by decide
theorem compareAck_unwritten : after (exec .compareAck attached) (fun t => status t.eng) = some 0x83000000 := by decide
/-- V-FP-8, on a line of four bytes and one poll: the settle delay stands between the preamble and the drain. -/
theorem resync_empty : (bigResync small [0x20, 0x20, 0x20, 0x20, 0x20]).map (fun r => r.2.1) =
    some [.rd .lsr 0x20, .wr .data 0xFF, .rd .lsr 0x20, .wr .data 0xFF, .rd .lsr 0x20, .wr .data 0xFF, .rd .lsr 0x20,
      .wr .data 0xFF, .sleep 100, .rd .lsr 0x20] := by decide
theorem resync_starts : after (exec .resync attached) (fun t => (t.eng.txb, t.eng.txi, t.eng.st)) =
    some (.flush, 0, .txPoll) := by decide
/-- V-FP-7: the outcome of each reply, in the order length, checksum, content. -/
theorem attempt_outcomes :
    [[], [0x01, 0x35, 0x00], [0x01, 0x35, 0x00, 0xCA], [0x01, 0x35, 0x00, 0xCB], [0x00, 0x35, 0x01, 0xCA],
      [0x01, 0x0C, 0x00, 0xF3], [0x02, 0x35, 0x00, 0xC9]].map (fun bs : List Byte => judgeBytes bs [0x01, 0x35, 0x00]) =
      [.short, .short, .acked, .badCsum, .nak, .nak, .nak] := by decide
theorem attempt_refused_at_limit :
    refusal (exec .attempt { attached with eng := { attached.eng with attempt := 2 } }) = some .attemptsUsedUp := by decide
/-- 42_frame_protocol.md R128: the frame and the acknowledgement of `[00 0C]`, the first attempt. -/
theorem sendCommand_starts : after (exec (.sendCommand [0x00, 0x0C]) attached)
    (fun t => (t.eng.frame.take 3, t.eng.ack, t.eng.attempt, t.eng.st)) =
    some ([some 0x00, some 0x0C, some 0xF4], [some 0x01, some 0x0C, some 0x00], 1, .txPoll) := by decide
/-- An exhausted command: no sleep but the delay after the diagnostic (42_frame_protocol.md R128, step 3). -/
theorem sendCommand_exhausted :
    after (microStep (inCommand .diagExh)) (fun t => (t.env.trace, t.eng.st)) = some ([.diag .exhausted [0x00]], .exhSleep) := by
  decide
/-- V-SS-2. -/
theorem trigger_other : after (exec (.trigger (.other 5) 0) attached) (fun t => (t.env.trace, t.eng, t.env.ret)) =
    some ([.trig (.other 5) 0, .ret .notHandled], attached.eng, .call .notHandled) := by decide
theorem trigger_in_done : after (exec (.trigger .halt 7) { attached with eng := { attached.eng with st := .done } })
    (fun t => (t.env.trace, t.eng.fault)) = some ([.trig .halt 7, .fault .reentrantTrigger], 0x81) := by decide
/-- V-SS-1. -/
theorem computeDivisor_rows :
    [0, 307199, 307200, 921599, 921600, 60000000, 156979199, 156979200, 4294967295].map
      (fun t : Word => divisorOf Params.reference t) = [0, 0, 1, 1, 2, 98, 255, 256, 6991] := by decide
theorem computeDivisor_returns : after (exec (.computeDivisor 60000000) attached) (fun t => t.env.ret) =
    some (.divisor 0x0062) := by decide
/-- 43_shutdown_sequencer.md R155. -/
theorem reconfigure_starts : after (exec .reconfigure attached) (fun t => (t.eng.divisor, t.eng.cfgJ, t.eng.st)) =
    some (some 0x0062, 0, .cfg) := by decide
/-- 43_shutdown_sequencer.md R156, R157: command 0 first; the next one whatever the result. -/
theorem runSequence_starts : after (exec .runSequence attached) (fun t => (t.eng.cmdIdx, t.eng.frame)) =
    some (.watchdogKill, [some 0x01, some 0x35, some 0x00, some 0xCA]) := by decide
theorem failed_command_goes_on :
    after (microStep (inCommand .exhSleep)) (fun t => (t.eng.cmdIdx, t.eng.cmdResult.watchdogKill, t.eng.attempt, t.eng.st)) =
      some (.shutdownWait, .fail, 1, .txPoll) := by decide
/-- The wire rows and the reason rows. -/
theorem frame_rows_start :
    after (exec .frameWatchdogKill attached) (fun t => t.eng.frame) = some [some 0x01, some 0x35, some 0x00, some 0xCA] ∧
    after (exec .frameShutdownWait attached) (fun t => t.eng.frame) = some [some 0x00, some 0x0C, some 0xF4, none] ∧
    after (exec .framePowerOff attached) (fun t => t.eng.frame) = some [some 0x00, some 0x06, some 0xFA, none] ∧
    after (exec (.commandFrame [0x80]) attached) (fun t => (t.eng.frame, t.eng.st)) =
      some ([some 0x80, some 0x80, none, none], .txPoll) := by decide
theorem ackResponse_delivers : after (exec (.ackResponse 0x0C []) attached) (fun t => t.env.line) =
    some [0x21, 0x01, 0x21, 0x0C, 0x21, 0x00, 0x21, 0xF3] := by decide
theorem expectedAckRef_writes : after (exec (.expectedAckRef 0x06) attached) (fun t => t.eng.ack) =
    some [some 0x01, some 0x06, some 0x00] := by decide
theorem resyncPreamble_starts : after (exec .resyncPreamble attached) (fun t => (t.eng.txb, t.eng.st)) =
    some (.flush, .txPoll) := by decide
theorem reason_rows_start :
    after (exec .reasonShutdown attached) (fun t => t.eng.st) = some .cfg ∧
    after (exec .reasonHalt attached) (fun t => (t.eng.st, t.env.hostCalls)) = some (.cfg, 1) := by decide

/-! ## The rest of the machine -/

/-- 10_state.md R34, on the status of 95_test_vectors.md section 5: program P3 and then a second accepted trigger. -/
theorem status_example :
    status { attached.eng with
      st := .done, cfgJ := 7, cmdIdx := .powerOff, attempt := 3, cmdResult := ⟨.ok, .ok, .fail⟩, fault := 0x81 } =
      0x81094E7F := by decide
theorem attach_refuses_bad_parameters :
    refusal (step { attached with env := { attached.env with
      attachReq := some ⟨{ small with retryLimit := 0 }, 0x1000, 0⟩ } }) = some .badParameters := by decide
theorem attach_refuses_unaligned_base :
    refusal (step { attached with env := { attached.env with attachReq := some ⟨small, 0x1002, 0⟩ } }) =
      some .badParameters := by decide
/-- 20_memory.md R52, 00_scope.md R7: an address takes `ADDR_WIDTH` bits, and a window that does not fit is refused. -/
theorem address_width :
    regAddr { small with addrWidth := 16 } 0xFFE0 .mcr = 0xFFF0 ∧
    paramsValid { small with addrWidth := 16 } 0xFFE0 = true ∧ paramsValid { small with addrWidth := 16 } 0xFFE4 = false ∧
    paramsValid { small with addrWidth := 16 } 0x10000 = false := by decide
/-- 00_scope.md R7 admits another baud, and a payload buffer longer than `txi`'s default range; 60 MHz at 2400 baud is
`(60000000 + 19200) div 38400`. -/
theorem attach_admits_what_r7_admits :
    paramsValid { small with targetBaud := 2400 } 0x1000 = true ∧ paramsValid { small with maxPayloadLen := 300 } 0x1000 = true ∧
    divisorOf { small with targetBaud := 2400 } 60000000 = 1563 := by decide
theorem program_runs_its_first_item :
    after (step { attached with env := { attached.env with program := [⟨.invocation, [0x13, 0x14]⟩] } })
      (fun t => (t.env.ret, t.env.program)) = some (.length true, [⟨.invocation, [0x14]⟩]) := by decide
theorem fetch_word_runs : after (step (State.reset.withFetchWord 8 0x13)) (fun t => t.env.ret) = some (.length true) := by decide


/-! ## Witnesses: for each statement with hypotheses, a concrete state and operands that meet them together -/

/-- The engine moves, and moves without a fault. -/
def movesCleanly (s : State) : Bool :=
  decide (s.env.attachReq = none) && decide (s.env.port = none) && decide (s.env.ctx ≠ .stuck) && engineRunning s &&
    decide (after (step s) (fun t => t.eng.fault) = some 0#8)

theorem after_some {α : Type} (o : Host.Outcome State Fault Refusal) (f : State → α) (x : α) (h : after o f = some x) :
    ∃ t, o = .next t ∧ f t = x := by
  cases o <;> simp_all [after]

theorem moving (s : State) (h : movesCleanly s = true) : engineMoves s ∧ ∃ t, step s = .next t ∧ t.eng.fault = 0#8 := by
  simp only [movesCleanly, Bool.and_eq_true, decide_eq_true_eq] at h
  exact ⟨⟨⟨h.1.1.1.1, h.1.1.1.2⟩, h.1.1.2, h.1.2⟩, after_some _ _ _ h.2⟩

theorem attached_mayInvoke : mayInvoke attached := ⟨rfl, rfl⟩
theorem attached_noRequest : noRequest attached := ⟨rfl, rfl⟩
theorem attached_inv : Inv attached := by
  constructor <;> first | decide | exact .inl rfl

/-- A full response to a command in the small parameter set, each byte at its first poll. -/
def reply (a c : Word) : List Word := [0x21, 0x01, 0x21, a, 0x21, 0x00, 0x21, c]

/-- The line's answers to three commands, each acknowledged at once. -/
def perfectLine : List Word :=
  List.replicate 4 0x20 ++ reply 0x35 0xCA ++ List.replicate 3 0x20 ++ reply 0x0C 0xF3 ++ List.replicate 3 0x20 ++ reply 0x06 0xF9

/-- Ready at a micro-state, with a response in the buffer and both status bits set. -/
def ready (st : MicroState) : State := withLine [0x21] (answered 0x01 0x0C 0x00 0xF3 st)

theorem withLine_inv (ws : List Word) (s : State) (h : Inv s) : Inv (withLine ws s) :=
  ⟨h.1, h.2, h.3, h.4, h.5, h.6, h.7, h.8, h.9, h.10, h.11, h.12, h.13, h.14, h.15, h.16⟩

theorem witness_DecodeOfEncodeReturnsTheInstruction :
    (Instr.commandFrame []).wf small = true ∧ (Instr.ackResponse 0xFF []).wf small = true ∧
    (Instr.trigger (.other 255) 7).wf small = true ∧ Instr.framePowerOff.wf small = true ∧ Instr.resyncPreamble.wf small = true := by
  decide
theorem witness_InvocationBytesDecodeInOperandOrder :
    (List.replicate 255 (0 : Byte)).length ≤ 255 ∧ ([] : List Byte).length ≤ 255 ∧
    ((0x00 : Byte) ≠ 0x01 ∧ (0x00 : Byte) ≠ 0x02) ∧ ((0x03 : Byte) ≠ 0x01 ∧ (0x03 : Byte) ≠ 0x02) := by decide +kernel
theorem witness_UnassignedLabelsAndBadOperandsAreStopped :
    (∀ l ∈ ([0x00, 0x06, 0x0F, 0x19, 0x1F, 0x24, 0xFF] : List Byte), unassignedLabel l) ∧
    (∀ l ∈ ([0x01, 0x05, 0x10, 0x18, 0x20, 0x23] : List Byte), ¬ unassignedLabel l) ∧
    (noRequest attached ∧ attached.env.ctx ≠ .stuck ∧ engineRunning attached = false ∧
      decodeItem attached.par ⟨.invocation, [0x24]⟩ = .error (.unassignedLabel 0x24)) ∧
    ((0x18 : Byte) ∈ ([0x05, 0x10, 0x11, 0x12, 0x18] : List Byte) ∧ ([0x00] : List Byte).length < (0x02 : Byte).toNat) ∧
    (mayInvoke attached ∧ attached.par.maxPayloadLen < ([1, 2, 3, 4] : List Byte).length) ∧
    (mayInvoke attached ∧ ([0x00] : List Byte).length < 2 ∧ ([] : List Byte).length < 2) ∧
    (attached.eng.st = .idle ∧ attached.par.responseCapacity < (5 : Byte).toNat) := by
  refine ⟨?_, ?_, ⟨attached_noRequest, ?_⟩, ?_, ⟨attached_mayInvoke, ?_⟩, ⟨attached_mayInvoke, ?_⟩, ?_⟩ <;>
    first | (simp only [unassignedLabel]; decide) | decide
theorem witness_WordsOfTheSpecDecode : small.payload = ⟨[0x01, 0x35, 0x00], [0x00, 0x0C], [0x00, 0x06]⟩ := rfl
theorem witness_WireItemsDecodeExactlyWhenWellFramed :
    ∃ i, decodeItem small ⟨.commandFrame, [0x80, 0x80]⟩ = .ok (i, []) := ⟨_, rfl⟩
theorem witness_StepRunsTheDecodedInstruction :
    ∃ s : State, noRequest s ∧ s.env.ctx ≠ .stuck ∧ engineRunning s = false ∧
      s.env.program = [⟨.invocation, [0x13, 0x14]⟩] ∧ decodeItem s.par ⟨.invocation, [0x13, 0x14]⟩ = .ok (.checkLength, [0x14]) :=
  ⟨{ attached with env := { attached.env with program := [⟨.invocation, [0x13, 0x14]⟩] } }, ⟨rfl, rfl⟩, by decide, by decide,
    rfl, by decide⟩
theorem witness_StepServesRequestsBeforeTheProgram :
    (∃ (s : State) (a : AttachInput), s.env.attachReq = some a) ∧
    (∃ (s : State) (c : HostCall), s.env.attachReq = none ∧ s.env.port = some c) ∧
    (∃ s : State, noRequest s ∧ s.env.ctx = .stuck) ∧
    engineMoves (ready .txPoll) ∧
    (noRequest attached ∧ attached.env.ctx ≠ .stuck ∧ engineRunning attached = false ∧ attached.env.program = []) :=
  ⟨⟨{ attached with env := { attached.env with attachReq := some ⟨small, 0, 0⟩ } }, _, rfl⟩,
    ⟨{ attached with env := { attached.env with port := some ⟨3, 0⟩ } }, _, rfl, rfl⟩,
    ⟨{ attached with env := { attached.env with ctx := .stuck } }, ⟨rfl, rfl⟩, rfl⟩, (moving _ (by decide)).1,
    attached_noRequest, by decide, by decide, rfl⟩
/-- Every micro-state with a step has a clean one. -/
theorem every_active_state_moves :
    ∀ st ∈ [MicroState.cfg, .txPoll, .txWrite, .rxPoll, .rxSleep, .diagShort, .settleFlush, .diagCsum, .diagNak, .postOk,
      .diagExh, .exhSleep, .returning], engineMoves (ready st) ∧ ∃ t, step (ready st) = .next t ∧ t.eng.fault = 0#8 := by
  have h : ∀ st ∈ [MicroState.cfg, .txPoll, .txWrite, .rxPoll, .rxSleep, .diagShort, .settleFlush, .diagCsum, .diagNak,
      .postOk, .diagExh, .exhSleep, .returning], movesCleanly (ready st) = true := by decide
  exact fun st hs => moving _ (h st hs)
/-- `RX_DATA` with room in the buffer. -/
def readingData : State := withLine [0x35] (inCommand .rxData)
theorem witness_EachMicroStatePerformsItsOwnPrimitive :
    (engineMoves (ready .diagCsum) ∧ ∃ t, step (ready .diagCsum) = .next t ∧ t.eng.fault = 0#8) ∧
    (engineMoves readingData ∧ ∃ t, step readingData = .next t ∧ t.eng.fault = 0#8) ∧
    (engineMoves (inCommand .diagCsum) ∧ ∃ t, step (inCommand .diagCsum) = .next t ∧ t.eng.fault = 0x83) :=
  ⟨moving _ (by decide), moving _ (by decide), ⟨⟨rfl, rfl⟩, by decide, by decide⟩,
    after_some _ (fun t => t.eng.fault) _ (by decide)⟩
theorem witness_EngineStepsWriteOnlyTheirOwnRegisters :
    (engineMoves (ready .postOk) ∧ ∃ t, step (ready .postOk) = .next t ∧
      (t.eng.cmdIdx ≠ (ready .postOk).eng.cmdIdx ∧ t.eng.cmdResult ≠ (ready .postOk).eng.cmdResult)) ∧
    (engineMoves readingData ∧ ∃ t, step readingData = .next t ∧ t.eng.rcount ≠ readingData.eng.rcount) ∧
    (engineMoves (ready .cfg) ∧ ∃ t, step (ready .cfg) = .next t ∧ t.eng.cfgJ ≠ (ready .cfg).eng.cfgJ) := by
  refine ⟨⟨(moving _ (by decide)).1, ?_⟩, ⟨(moving _ (by decide)).1, ?_⟩, ⟨(moving _ (by decide)).1, ?_⟩⟩
  · exact ⟨_, rfl, by decide⟩
  · exact ⟨_, rfl, by decide⟩
  · exact ⟨_, rfl, by decide⟩
/-- The last configuration write is next. -/
def lastWrite : State := { ready .cfg with eng := { (ready .cfg).eng with cfgJ := 6 } }
theorem witness_ConfigurationWritesAreBackToBack :
    (engineMoves (ready .cfg) ∧ (∃ t, step (ready .cfg) = .next t ∧ t.eng.fault = 0#8) ∧
      (ready .cfg).eng.cfgJ + 1 < cfgLen (ready .cfg).par) ∧
    (engineMoves lastWrite ∧ (∃ t, step lastWrite = .next t ∧ t.eng.fault = 0#8) ∧ lastWrite.eng.cfgJ + 1 = cfgLen lastWrite.par) :=
  ⟨⟨(moving _ (by decide)).1, (moving _ (by decide)).2, by decide⟩, (moving _ (by decide)).1, (moving _ (by decide)).2, by decide⟩
theorem witness_IdleWaitsForAnAcceptedCall :
    ∃ s t : State, s.eng.st = .idle ∧ s.env.program = [] ∧ s.env.attachReq = none ∧ step s = .next t ∧ t.eng ≠ s.eng :=
  ⟨{ attached with env := { attached.env with port := some ⟨4, 9⟩ } }, _, rfl, rfl, rfl, rfl, by decide⟩
/-- Two polls allowed, none made with success. -/
def twoPolls (k : Nat) (w : Word) : State :=
  withLine [w] { inCommand .rxPoll with par := { small with readPollLimit := 2 }, eng := { (inCommand .rxPoll).eng with k := k } }
theorem witness_PollCounterCountsStatusPolls :
    ∀ s ∈ [ready .settleFlush, ready .rxSleep, ready .rxPoll, twoPolls 1 0x20, twoPolls 2 0x20, twoPolls 2 0x21],
      engineMoves s ∧ ∃ t, step s = .next t ∧ t.eng.fault = 0#8 := by
  have h : ∀ s ∈ [ready .settleFlush, ready .rxSleep, ready .rxPoll, twoPolls 1 0x20, twoPolls 2 0x20, twoPolls 2 0x21],
      movesCleanly s = true := by decide
  exact fun s hs => moving s (h s hs)
theorem witness_ConfigureWritesItsSequence : mayInvoke attached ∧ noRequest attached := ⟨attached_mayInvoke, attached_noRequest⟩
theorem witness_ReconfigureUsesTheTickRate : mayInvoke attached ∧ noRequest attached := ⟨attached_mayInvoke, attached_noRequest⟩
theorem witness_ReadByteRunsItsPseudocode :
    ∀ ws ∈ [[0x20], [0x21, 0x35]], mayInvoke (withLine ws attached) ∧ noRequest (withLine ws attached) ∧
      1 ≤ (withLine ws attached).par.readPollLimit ∧
      (bigReadByte small small.readPollLimit (withLine ws attached).env.line).isSome = true := by
  intro ws h
  refine ⟨⟨rfl, rfl⟩, ⟨rfl, rfl⟩, by show 1 ≤ 1; decide, ?_⟩
  revert ws
  decide
theorem witness_ReadBytePollsAndSleepsAreCounted :
    1 ≤ 10 ∧ 1 ≤ 1 ∧ bigReadByte Params.reference 1 [0x20] = some (none, [.rd .lsr 0x20], []) ∧
    bigReadByte Params.reference 10 [0x20, 0x21, 0x07] =
      some (some 0x07, [.rd .lsr 0x20, .sleep 1, .rd .lsr 0x21, .rd .data 0x07], []) := by decide
theorem witness_WriteByteRunsItsPseudocode :
    mayInvoke (withLine [0x1F, 0x20] attached) ∧ noRequest (withLine [0x1F, 0x20] attached) ∧
    bigWriteByte small 0x5A [0x1F, 0x20] = some ([.rd .lsr 0x1F, .rd .lsr 0x20, .wr .data 0x5A], []) :=
  ⟨⟨rfl, rfl⟩, ⟨rfl, rfl⟩, by decide⟩
theorem witness_ReadBytesFillsAFreshBuffer :
    mayInvoke (withLine (reply 1 2) attached) ∧ noRequest (withLine (reply 1 2) attached) ∧ 1 ≤ small.readPollLimit ∧
    ((0 : Byte).toNat ≤ small.responseCapacity ∧ (bigReadBytes small 0 (reply 1 2)).isSome = true) ∧
    ((4 : Byte).toNat ≤ small.responseCapacity ∧ (bigReadBytes small 4 (reply 1 2)).isSome = true) :=
  ⟨⟨rfl, rfl⟩, ⟨rfl, rfl⟩, by decide, by decide, by decide⟩
theorem witness_WriteBytesSendsInOrder :
    mayInvoke (withLine [0x20, 0x20] attached) ∧ noRequest (withLine [0x20, 0x20] attached) ∧
    (bigWriteBytes small [] [0x20, 0x20]).isSome = true ∧ (bigWriteBytes small [1, 2] [0x20, 0x20]).isSome = true :=
  ⟨⟨rfl, rfl⟩, ⟨rfl, rfl⟩, by decide, by decide⟩
theorem witness_ChecksumCompletesTheSumToZero :
    mayInvoke attached ∧ ([0x80, 0x80].map (BitVec.toNat (w := 8))).sum % 256 = 0 := ⟨attached_mayInvoke, by decide⟩
theorem witness_BuildFrameFillsTheFrame :
    mayInvoke attached ∧ ([] : List Byte).length ≤ attached.par.maxPayloadLen ∧
    ([1, 2, 3] : List Byte).length ≤ attached.par.maxPayloadLen ∧ attached.par.maxPayloadLen < ([1, 2, 3, 4] : List Byte).length ∧
    ∃ t, exec (.buildFrame [1, 2, 3]) attached = .next t :=
  ⟨attached_mayInvoke, by decide, by decide, by decide, _, rfl⟩
theorem witness_ExpectedAckTakesTheSecondByte :
    mayInvoke attached ∧ ([] : List Byte).length + 2 ≤ attached.par.maxPayloadLen ∧
    ([7] : List Byte).length + 2 ≤ attached.par.maxPayloadLen ∧ ([7] : List Byte).length < 2 ∧
    attached.par.maxPayloadLen < ([1, 2, 3, 4] : List Byte).length :=
  ⟨attached_mayInvoke, by decide, by decide, by decide, by decide⟩
theorem witness_CheckLengthTestsTheThreshold :
    (mayInvoke { attached with eng := { attached.eng with rcount := 3 } } ∧ (3 : Nat) ≤ 3) ∧
    (mayInvoke { attached with eng := { attached.eng with rcount := 4 } } ∧ (4 : Nat) ≤ 4) :=
  ⟨⟨⟨rfl, rfl⟩, by decide⟩, ⟨⟨rfl, rfl⟩, by decide⟩⟩
theorem answered_inv : Inv (answered 0x01 0x0C 0x00 0xF3 .idle) := by
  constructor <;> first | decide | exact .inl rfl
theorem witness_VerifyChecksumTestsFourBytes :
    mayInvoke (answered 0x01 0x0C 0x00 0xF3 .idle) ∧
    (answered 0x01 0x0C 0x00 0xF3 .idle).eng.rbuf = some 0x01 :: some 0x0C :: some 0x00 :: some 0xF3 :: [] ∧
    (mayInvoke attached ∧ none ∈ attached.eng.rbuf.take 4) ∧
    (Inv (answered 0x01 0x0C 0x00 0xF3 .idle) ∧ 4 ≤ (answered 0x01 0x0C 0x00 0xF3 .idle).eng.rcount) :=
  ⟨⟨rfl, rfl⟩, rfl, ⟨attached_mayInvoke, by decide⟩, answered_inv, by decide⟩
theorem witness_CompareAckComparesThreeBytes :
    mayInvoke (answered 0x01 0x0C 0x00 0xF3 .idle) ∧
    (answered 0x01 0x0C 0x00 0xF3 .idle).eng.rbuf = some 0x01 :: some 0x0C :: some 0x00 :: [some 0xF3] ∧
    (answered 0x01 0x0C 0x00 0xF3 .idle).eng.ack = [some 0x01, some 0x0C, some 0x00] ∧
    (mayInvoke attached ∧ none ∈ attached.eng.rbuf.take 3 ∧ none ∈ attached.eng.ack.take 3) :=
  ⟨⟨rfl, rfl⟩, rfl, rfl, attached_mayInvoke, by decide, by decide⟩
theorem witness_ResyncFlushesAndDrains :
    mayInvoke (withLine (List.replicate 5 0x20) attached) ∧ noRequest (withLine (List.replicate 5 0x20) attached) ∧
    1 ≤ small.responseCapacity ∧ 1 ≤ small.readPollLimit ∧ (bigResync small (List.replicate 5 0x20)).isSome = true :=
  ⟨⟨rfl, rfl⟩, ⟨rfl, rfl⟩, by decide, by decide, by decide⟩
/-- A harness `ATTEMPT` about to run, and its line. -/
def attempting : State := withLine (List.replicate 3 0x20 ++ reply 0x0C 0xF3) (inCommand .idle)
theorem witness_AttemptRunsItsPseudocode :
    (attached.eng.st = .idle ∧ { attached.eng with attempt := 2 }.st = .idle ∧ small.retryLimit ≤ { attached.eng with attempt := 2 }.attempt) ∧
    mayInvoke attempting ∧ noRequest attempting ∧ Inv attempting ∧ attempting.eng.attempt < attempting.par.retryLimit ∧
    attempting.eng.frameLen ≠ 0 ∧
    attempting.eng.frame.take attempting.eng.frameLen = ([0x00, 0x0C, 0xF4] : List Byte).map some ∧
    attempting.eng.ack = ([0x01, 0x0C, 0x00] : List Byte).map some ∧
    (bigAttempt attempting.par [0x00, 0x0C, 0xF4] [0x01, 0x0C, 0x00] attempting.env.line).map Prod.fst = some .acked :=
  ⟨⟨rfl, rfl, by decide⟩, ⟨rfl, rfl⟩, ⟨rfl, rfl⟩, withLine_inv _ _ (by constructor <;> first | decide | exact .inl rfl), by decide,
    by decide, by decide, by decide, by decide⟩
theorem witness_SendCommandRunsItsPseudocode :
    mayInvoke (withLine perfectLine attached) ∧ noRequest (withLine perfectLine attached) ∧ Inv (withLine perfectLine attached) ∧
    (2 ≤ ([0x00, 0x0C] : List Byte).length ∧ ([0x01, 0x35, 0x00] : List Byte).length ≤ small.maxPayloadLen) ∧
    (bigSendCommand small .watchdogKill [0x01, 0x35, 0x00] perfectLine).map CommandRun.result = some .ok :=
  ⟨⟨rfl, rfl⟩, ⟨rfl, rfl⟩, withLine_inv _ _ attached_inv, by decide, by decide⟩
/-- Two attempts that no one answers. -/
def silentLine : List Word := List.replicate 18 0x20
theorem witness_AttemptsAreBoundedByTheRetryLimit :
    1 ≤ small.retryLimit ∧ (bigSendCommand small .watchdogKill [0x00, 0x0C] silentLine).map CommandRun.attempts = some 2 ∧
    (bigSendCommand small .watchdogKill [0x01, 0x35, 0x00] perfectLine).map CommandRun.attempts = some 1 := by decide
/-- A read in a command that its last poll is about to end, with three bytes and with four in the buffer. -/
def timingOut (n : Nat) (p : RxPurpose) : State := withLine [0x20] { ready .rxPoll with
  eng := { (ready .rxPoll).eng with rxp := p, rcount := n } }
/-- A read in a command that is about to fill the buffer. -/
def filling (p : RxPurpose) : State := { readingData with
  eng := { readingData.eng with rxp := p, rcount := 3, rbuf := [some 0x01, some 0x0C, some 0x00, none] } }
/-- Each micro-state of the recovery paths, below the retry limit and at it. -/
def recovering (n : Nat) (st : MicroState) : State := { ready st with eng := { (ready st).eng with attempt := n } }
theorem witness_OnlyShortResponsesAreFlushed :
    (∀ s ∈ [timingOut 3 .resp, timingOut 4 .resp, timingOut 3 .drain, filling .resp, filling .drain, recovering 2 .diagNak,
      recovering 1 .diagNak, ready .diagCsum, ready .diagShort, ready .settleFlush], engineMoves s) ∧
    (holdsResponse [0x01, 0x0C, 0x00] [0x01, 0x0C, 0x00] (timingOut 3 .resp) ∧ timesOut (timingOut 3 .resp)) ∧
    (holdsResponse [0x01, 0x0C, 0x00, 0xF3] [0x01, 0x0C, 0x00] (timingOut 4 .resp) ∧ timesOut (timingOut 4 .resp)) ∧
    (holdsResponse [0x01, 0x0C, 0x00] [0x01, 0x0C, 0x00] (filling .resp) ∧ fillsBuffer (filling .resp)) ∧
    (timesOut (timingOut 3 .drain) ∧ fillsBuffer (filling .drain)) ∧
    (recovering 1 .diagNak).eng.attempt < small.retryLimit ∧ small.retryLimit ≤ (recovering 2 .diagNak).eng.attempt ∧
    (ready .diagCsum).eng.rbuf = some 0x01 :: some 0x0C :: some 0x00 :: some 0xF3 :: [] ∧
    (∃ s, engineMoves s ∧ s.env.ctx.sendsCommands = true ∧ s.eng.st = .txWrite ∧ s.eng.txb = .flush ∧
      s.eng.txi + 1 = s.par.responseCapacity) := by
  refine ⟨fun s h => (moving s ?_).1, ?_, ?_, ?_, ?_, by decide, by decide, rfl, ?_⟩
  · revert s; decide
  · exact ⟨⟨rfl, rfl, rfl, rfl⟩, rfl, by decide, rfl⟩
  · exact ⟨⟨rfl, rfl, rfl, rfl⟩, rfl, by decide, rfl⟩
  · exact ⟨⟨rfl, rfl, rfl, rfl⟩, rfl, rfl, rfl⟩
  · exact ⟨⟨rfl, by decide, rfl⟩, rfl, rfl, rfl⟩
  · exact ⟨{ ready .txWrite with eng := { (ready .txWrite).eng with txb := .flush, txi := 3 } }, ⟨⟨rfl, rfl⟩, by decide, by decide⟩,
      rfl, rfl, rfl, rfl⟩
theorem witness_DivisorIsTheRoundedQuotient :
    mayInvoke attached ∧ small.targetBaud = 38400 ∧ (307199 : Word).toNat < 307200 ∧
    (1 ≤ { small with targetBaud := 1 }.targetBaud ∧ ((1048559 : Word).toNat + 8 * 1) / (16 * 1) < 65536) :=
  ⟨attached_mayInvoke, rfl, by decide, by decide⟩
theorem witness_RunSequenceRunsItsPseudocode :
    mayInvoke (withLine perfectLine attached) ∧ noRequest (withLine perfectLine attached) ∧ Inv (withLine perfectLine attached) ∧
    (bigSequence small perfectLine).map Prod.fst = some ⟨.ok, .ok, .ok⟩ :=
  ⟨⟨rfl, rfl⟩, ⟨rfl, rfl⟩, withLine_inv _ _ attached_inv, by decide⟩
theorem witness_AcceptedTriggerRunsToHandled :
    mayInvoke (withLine perfectLine attached) ∧ noRequest (withLine perfectLine attached) ∧ Inv (withLine perfectLine attached) ∧
    (bigTrigger small 60000000 perfectLine).map (fun r => (r.1, r.2.1)) = some (⟨.ok, .ok, .ok⟩, 1) :=
  ⟨⟨rfl, rfl⟩, ⟨rfl, rfl⟩, withLine_inv _ _ attached_inv, by decide⟩
theorem witness_UnacceptedReasonsAreNotHandled : (inCommand .done).eng.fault = 0#8 ∧ attached.eng.fault = 0#8 := ⟨rfl, rfl⟩
theorem witness_SecondAcceptedTriggerFaults :
    (inCommand .done).eng.fault = 0#8 ∧ (inCommand .done).eng.st ≠ .idle ∧ (inCommand .cfg).eng.st ≠ .idle ∧
    small.reasonCodeShutdown ≠ small.reasonCodeHalt ∧ (0 ≠ small.reasonCodeShutdown ∧ 0 ≠ small.reasonCodeHalt) := by decide
theorem witness_TriggerArgumentIsNeverRead :
    ∃ t u, exec (.trigger .halt 7) attached = .next t ∧ Host.Core.run Sys2Proof.core 1 t = .next u := ⟨_, _, rfl, rfl⟩
theorem witness_FailedCommandsDoNotStopTheSequence :
    (engineMoves (inCommand .exhSleep) ∧ (inCommand .exhSleep).env.ctx = .engine ∧ Inv (inCommand .exhSleep) ∧
      (inCommand .exhSleep).eng.cmdIdx.next? = some .shutdownWait) ∧
    (∃ s, engineMoves s ∧ s.env.ctx = .engine ∧ Inv s ∧ s.eng.st = .postOk ∧ s.eng.cmdIdx = .powerOff) :=
  ⟨⟨(moving _ (by decide)).1, rfl, by constructor <;> first | decide | exact .inl rfl, rfl⟩,
    ⟨{ inCommand .postOk with eng := { (inCommand .postOk).eng with cmdIdx := .powerOff } }, ⟨⟨rfl, rfl⟩, by decide, by decide⟩, rfl,
      by constructor <;> first | decide | exact .inl rfl, rfl, rfl⟩⟩
theorem witness_DoneIsTerminal :
    (inCommand .done).eng.st = .done ∧ (inCommand .done).env.attachReq = none ∧ (∃ t, step (inCommand .done) = .next t) ∧
    ∃ s t : State, s.eng.st = .done ∧ s.env.attachReq = none ∧ step s = .next t ∧ t.eng.fault ≠ s.eng.fault :=
  ⟨rfl, rfl, ⟨_, rfl⟩,
    ⟨{ inCommand .done with env := { (inCommand .done).env with port := some ⟨3, 0⟩ } }, _, rfl, rfl, rfl, by decide⟩⟩
theorem witness_FrameRowsSendTheirFrames :
    mayInvoke (withLine (List.replicate 4 0x20) attached) ∧ noRequest (withLine (List.replicate 4 0x20) attached) ∧
    small.payload.watchdogKill.length ≤ small.maxPayloadLen ∧ small.payload.shutdownWait.length ≤ small.maxPayloadLen ∧
    small.payload.powerOff.length ≤ small.maxPayloadLen ∧ ([] : List Byte).length ≤ small.maxPayloadLen ∧
    small.maxPayloadLen < ([1, 2, 3, 4] : List Byte).length ∧
    (bigWriteBytes small (frameOf small.payload.watchdogKill) (List.replicate 4 0x20)).isSome = true :=
  ⟨⟨rfl, rfl⟩, ⟨rfl, rfl⟩, by decide, by decide, by decide, by decide, by decide, by decide⟩
theorem witness_DeliveredResponseIsReadAndJudged :
    mayInvoke (inCommand .idle) ∧ noRequest (inCommand .idle) ∧ Inv (inCommand .idle) ∧ ackWritten (inCommand .idle).eng = true :=
  ⟨⟨rfl, rfl⟩, ⟨rfl, rfl⟩, by constructor <;> first | decide | exact .inl rfl, rfl⟩
theorem witness_ReferenceAndPreambleRowsComplete :
    mayInvoke (withLine (List.replicate 4 0x20) attached) ∧ noRequest (withLine (List.replicate 4 0x20) attached) ∧
    1 ≤ small.responseCapacity ∧
    (bigWriteBytes small (List.replicate small.responseCapacity small.flushByte) (List.replicate 4 0x20)).isSome = true :=
  ⟨⟨rfl, rfl⟩, ⟨rfl, rfl⟩, by decide, by decide⟩
theorem witness_ReasonRowsRaiseTheNotification : mayInvoke attached := attached_mayInvoke
theorem witness_InvocationsOutsideIdleAreRefused : (inCommand .done).eng.st ≠ .idle ∧ (inCommand .cfg).eng.st ≠ .idle := by decide
/-- The engine with a fault recorded. -/
def broken : State := { attached with eng := { attached.eng with fault := 0x82 } }
theorem witness_CallsUnderAFaultNeverReturn :
    broken.eng.fault ≠ 0#8 ∧ (∃ t, exec .resync broken = .next t) ∧ (∃ t, exec (.trigger .halt 0) broken = .next t) ∧
    ∃ s : State, noRequest s ∧ s.env.ctx = .stuck :=
  ⟨by decide, ⟨_, rfl⟩, ⟨_, rfl⟩, ⟨{ broken with env := { broken.env with ctx := .stuck } }, ⟨rfl, rfl⟩, rfl⟩⟩
theorem witness_FaultsArePreciseAndSticky :
    (∃ s t : State, s.eng.fault = 0#8 ∧ step s = .next t ∧ t.eng.fault ≠ 0#8) ∧
    (broken.eng.fault ≠ 0#8 ∧ broken.env.attachReq = none ∧ ∃ t, step broken = .next t) :=
  ⟨⟨{ attached with env := { attached.env with program := [⟨.invocation, [0x15]⟩] } }, _, rfl, rfl, by decide⟩, by decide, rfl, _, rfl⟩
theorem witness_AttachResetsEveryRegister :
    (∃ (s : State) (a : AttachInput), s.env.attachReq = some a ∧ breaksR7 a.params a.base) ∧
    (∃ (s : State) (a : AttachInput), s.env.attachReq = some a ∧ ¬ breaksR7 a.params a.base ∧
      s.env.port = none ∧ s.env.program = []) ∧
    (attached.env.attachReq = none ∧ ∃ t, step attached = .next t) :=
  ⟨⟨{ attached with env := { attached.env with attachReq := some ⟨{ small with retryLimit := 16 }, 0, 0⟩ } }, _, rfl,
      .inr (.inl (by decide))⟩,
    ⟨{ attached with env := { attached.env with attachReq := some ⟨{ small with retryLimit := 15 }, 0xFFFFFFE0, 0⟩ } }, _, rfl,
      (paramsValid_iff _ _).mp (by decide), rfl, rfl⟩, rfl, _, rfl⟩
theorem witness_StatusFieldsStandWhereTheSpecPutsThem :
    ({ attached.eng with cfgJ := 7, attempt := 15 } : Engine).cfgJ ≤ 7 ∧ ({ attached.eng with cfgJ := 7, attempt := 15 } : Engine).attempt ≤ 15 := by
  decide
theorem witness_BusAccessesMatchTheTrace : ∃ t, step (ready .txPoll) = .next t := ⟨_, rfl⟩
theorem witness_RegisterAddressesNeitherWrapNorMisalign :
    paramsValid small 0x1000 = true ∧ regIndex { small with lineBinding := .named } .dlm ≤ 7 ∧ small.regStride % 4 = 0 := by decide
theorem witness_OnlyTheTestedStatusBitMatters :
    (engineMoves (ready .txPoll) ∧ (ready .txPoll).env.line = 0x21 :: [] ∧
      holdingEmpty small (busByte 0x21) = holdingEmpty small (busByte 0xFFFFFF7E) ∧
      ∃ t, step (ready .txPoll) = .next t ∧ t.eng.fault = 0#8) ∧
    (engineMoves (ready .rxPoll) ∧ (ready .rxPoll).env.line = 0x21 :: [] ∧
      dataReady small (busByte 0x21) = dataReady small (busByte 0x1F) ∧
      ∃ t, step (ready .rxPoll) = .next t ∧ t.eng.fault = 0#8) :=
  ⟨⟨(moving _ (by decide)).1, rfl, by decide, (moving _ (by decide)).2⟩,
    ⟨(moving _ (by decide)).1, rfl, by decide, (moving _ (by decide)).2⟩⟩
theorem witness_StepsNeverReadThePast : ∃ t, step (ready .txPoll) = .next t := ⟨_, rfl⟩
/-- The engine right after a poll that saw both bits. -/
def polled (st : MicroState) : State := { readingData with
  eng := { readingData.eng with st := st }, env := { readingData.env with bus := [⟨false, 0x1014, 32, 0x21⟩] } }
theorem witness_DataIsAccessedOnlyRightAfterItsPoll :
    (hazardsRespected (polled .rxData) ∧ ∃ t, step (polled .rxData) = .next t) ∧
    (hazardsRespected (polled .txWrite) ∧ ∃ t, step (polled .txWrite) = .next t) :=
  ⟨⟨⟨fun _ => ⟨0x21, by decide, by decide⟩, fun h => absurd h (by decide)⟩, _, rfl⟩,
    ⟨⟨fun h => absurd h (by decide), fun _ => ⟨0x21, by decide, by decide⟩⟩, _, rfl⟩⟩
theorem witness_EveryStepKeepsTheInvariant : Inv attached ∧ ∃ t, step attached = .next t := ⟨attached_inv, _, rfl⟩
theorem witness_CommandsReadNoUnwrittenByte :
    Inv (inCommand .exhSleep) ∧ engineMoves (inCommand .exhSleep) ∧ (inCommand .exhSleep).env.ctx ≠ .attempt ∧
    (inCommand .exhSleep).env.ctx ≠ .response :=
  ⟨by constructor <;> first | decide | exact .inl rfl, (moving _ (by decide)).1, by decide, by decide⟩
theorem witness_OnlyAnUndrainedLineKeepsTheEngineRunning :
    Inv (inCommand .exhSleep) ∧ engineMoves (inCommand .exhSleep) ∧ ∃ t, step (inCommand .exhSleep) = .next t :=
  ⟨by constructor <;> first | decide | exact .inl rfl, (moving _ (by decide)).1, _, rfl⟩
/-- The run from a state comes to rest within this many steps, with nothing left to do, and every poll of its transmitter on the
way has a scripted answer to come that shows THRE. -/
def drainsFor : Nat → State → Bool
  | 0, s => !engineRunning s && s.env.program.isEmpty && s.env.port.isNone && s.env.attachReq.isNone
  | n + 1, s => (decide (s.eng.st ≠ .txPoll) || s.env.line.any (fun w => holdingEmpty s.par (busByte w))) &&
    match step s with
    | .next t => drainsFor n t
    | _ => true
theorem rest_stays (s : State) (h : drainsFor 0 s = true) : step s = .next s := by
  simp only [drainsFor, Bool.and_eq_true, Bool.not_eq_true', List.isEmpty_iff, Option.isNone_iff_eq_none] at h
  simp [step, h, fetch]
theorem showsThre_of_line (s : State) (h : s.env.line.any (fun w => holdingEmpty s.par (busByte w)) = true) : showsThre s := by
  simp only [List.any_eq_true] at h
  obtain ⟨w, hw, hb⟩ := h
  obtain ⟨i, hi⟩ := List.mem_iff_getElem?.mp hw
  exact ⟨i, by simp [upcoming, hi, hb]⟩
theorem lineDrains_of_drainsFor (m : Nat) (s : State) (h : drainsFor m s = true) : lineDrains s := by
  induction m generalizing s with
  | zero =>
    intro n t hr hm
    rw [run_of_quiet s (rest_stays s h) n] at hr
    cases hr
    simp only [drainsFor, Bool.and_eq_true, Bool.not_eq_true'] at h
    exact absurd hm.2.2 (by simp [h.1.1.1])
  | succ m ih =>
    intro n t hr hm hst
    simp only [drainsFor, Bool.and_eq_true, Bool.or_eq_true, decide_eq_true_eq] at h
    cases n with
    | zero => cases hr; exact showsThre_of_line s (h.1.resolve_left (fun hn => hn hst))
    | succ n =>
      obtain ⟨u, hu, hr⟩ := run_succ_next n s t hr
      exact ih u (by simpa [hu] using h.2) n t hr hm hst
/-- A harness `WRITE_BYTE` at its first poll, with THRE set at the second. -/
def writing : State := withLine [0x1F, 0x20] { attached with
  eng := { attached.eng with st := .txPoll }, env := { attached.env with ctx := .writeByte 0x5A } }
theorem witness_EveryOperationEndsOnALineThatDrains :
    (Inv writing ∧ engineMoves writing ∧ lineDrains writing) ∧
    (Inv (withLine [0x20] attached) ∧ noRequest (withLine [0x20] attached) ∧
      (∀ bs, Instr.writeByte 0x5A = .writeBytes bs → bs.length ≤ 255) ∧
      ∃ t, exec (.writeByte 0x5A) (withLine [0x20] attached) = .next t ∧ lineDrains t) :=
  ⟨⟨withLine_inv _ _ (by constructor <;> first | decide | exact .inl rfl), (moving _ (by decide)).1,
      lineDrains_of_drainsFor 3 _ (by decide)⟩,
    withLine_inv _ _ attached_inv, ⟨rfl, rfl⟩, (fun _ h => by cases h), _, rfl, lineDrains_of_drainsFor 2 _ (by decide)⟩
/-- An accepted call on the line that acknowledges each command: 7 writes, 10 bytes sent, 12 received, 3 delays, the return. -/
theorem witness_AcceptedTriggerReturnsOnALineThatDrains :
    mayInvoke (withLine perfectLine attached) ∧ Inv (withLine perfectLine attached) ∧ noRequest (withLine perfectLine attached) ∧
    ∃ t, exec (.trigger .halt 7) (withLine perfectLine attached) = .next t ∧ lineDrains t :=
  ⟨⟨rfl, rfl⟩, withLine_inv _ _ attached_inv, ⟨rfl, rfl⟩, _, rfl, lineDrains_of_drainsFor 55 _ (by decide +kernel)⟩
/-- The same three acknowledgements on a line of the reference design: each read ends in its ten-poll timeout. -/
def referenceLine : List Word :=
  List.replicate 4 0x20 ++ reply 0x35 0xCA ++ List.replicate 13 0x20 ++ reply 0x0C 0xF3 ++ List.replicate 13 0x20 ++
    reply 0x06 0xF9 ++ List.replicate 10 0x20
theorem witness_SleepingIsBounded :
    (bigReadBytes small 4 [0x20]).map Prod.fst = some [] ∧
    (bigAttempt small [0x00, 0x0C, 0xF4] [0x01, 0x0C, 0x00] silentLine).map Prod.fst = some .short ∧
    (bigAttempt small [0x00, 0x0C, 0xF4] [0x01, 0x0C, 0x00] (List.replicate 3 0x20 ++ reply 0x0C 0xF3)).map Prod.fst = some .acked ∧
    (bigSendCommand small .powerOff [0x00, 0x06] silentLine).map CommandRun.result = some .fail ∧
    (bigTrigger Params.reference 60000000 referenceLine).map Prod.fst = some ⟨.ok, .ok, .ok⟩ := by
  decide +kernel

end Sys2Proof.Tests
end

section
/-! PROOF. The engine's invariant (10_state.md R20 to R35): what it says of the registers, and what each position of the
pseudocode gives. -/

namespace Sys2Proof.Machine

/-! ## The register ranges -/

/-- The command's frame is written up to its length (10_state.md R25). -/
structure FrameOk (p : Params) (frame : List (Option Byte)) (frameLen : Nat) : Prop where
  size : frame.length = p.maxPayloadLen + 1
  range : frameLen ≤ p.maxPayloadLen + 1
  written : (frame.take frameLen).all Option.isSome = true

/-- The receive buffer holds bytes up to its count and none after (10_state.md R27). -/
structure RxBufferOk (p : Params) (rbuf : List (Option Byte)) (rcount : Nat) : Prop where
  size : rbuf.length = p.responseCapacity
  range : rcount ≤ p.responseCapacity
  written : (rbuf.take rcount).all Option.isSome = true
  rest : (rbuf.drop rcount).all Option.isNone = true

/-- The part of `Inv` that holds of the registers alone, at every position and under a fault. -/
structure RangesOk (p : Params) (e : Engine) : Prop where
  params : paramsValid p e.base = true
  frame : FrameOk p e.frame e.frameLen
  ackSize : e.ack.length = 3
  rx : RxBufferOk p e.rbuf e.rcount
  cfgJ : e.cfgJ ≤ 7
  attempt : e.attempt ≤ p.retryLimit
  k : e.k ≤ p.readPollLimit
  txi : e.txi ≤ max 255 (p.maxPayloadLen + 1)

theorem Inv.ranges {s : State} (h : Inv s) : RangesOk s.par s.eng where
  params := h.params
  frame := ⟨h.frameSize, h.frameLenRange, h.frameBytes⟩
  ackSize := h.ackSize
  rx := ⟨h.rbufSize, h.rcountRange, h.rbufBytes, h.rbufRest⟩
  cfgJ := h.cfgJRange
  attempt := h.attemptRange
  k := h.kRange
  txi := h.txiRange

theorem RangesOk.inv {s : State} (h : RangesOk s.par s.eng)
    (hcode : s.eng.fault = 0#8 ∨ ∃ kind : FaultKind, s.eng.fault = kind.code)
    (hstuck : s.env.ctx = .stuck → s.eng.fault ≠ 0#8) (hpos : s.eng.fault = 0#8 → positionOk s = true) : Inv s where
  params := h.params
  frameSize := h.frame.size
  ackSize := h.ackSize
  rbufSize := h.rx.size
  cfgJRange := h.cfgJ
  attemptRange := h.attempt
  frameLenRange := h.frame.range
  frameBytes := h.frame.written
  rcountRange := h.rx.range
  rbufBytes := h.rx.written
  rbufRest := h.rx.rest
  kRange := h.k
  txiRange := h.txi
  faultCode := hcode
  stuckFaulted := hstuck
  position := hpos

/-- The invariant reads nothing of the surroundings but `ctx`. -/
theorem Inv.of_env {s : State} {env : Env} (h : Inv s) (hc : env.ctx = s.env.ctx) : Inv { s with env := env } := by
  have hpos : positionOk { s with env := env } = positionOk s :=
    calc positionOk { s with env := env }
      _ = positionOk { s with env := { s.env with ctx := env.ctx } } := rfl
      _ = positionOk s := by rw [hc]
  exact RangesOk.inv (s := { s with env := env }) h.ranges h.faultCode (fun hs => h.stuckFaulted (hc.symm.trans hs))
    (fun hf => hpos.trans (h.position hf))

theorem FaultKind.code_ne_zero (k : FaultKind) : k.code ≠ 0#8 := by cases k <;> decide

/-- The constraints of 00_scope.md R7, as inequalities. -/
structure ParamsOk (p : Params) : Prop where
  retry : 1 ≤ p.retryLimit
  capacityLow : 4 ≤ p.responseCapacity
  capacityHigh : p.responseCapacity ≤ 255
  polls : 1 ≤ p.readPollLimit
  payload : ∀ c, badPayloadLen p (p.payload.get c) = false

theorem ParamsOk.capacity_pos {p : Params} (h : ParamsOk p) : 0 < p.responseCapacity :=
  Nat.lt_of_lt_of_le (by decide) h.capacityLow

theorem paramsOk_of_valid {p : Params} {base : Nat} (h : paramsValid p base = true) : ParamsOk p := by
  rw [paramsValid_iff] at h
  unfold breaksR7 at h
  push Not at h
  obtain ⟨hr, -, hl, hh, hp, -, -, -, -, -, hc⟩ := h
  exact ⟨hr, hl, hh, hp, fun c => (badPayloadLen_false p _).mpr (hc c)⟩

theorem RangesOk.paramsOk {p : Params} {e : Engine} (h : RangesOk p e) : ParamsOk p := paramsOk_of_valid h.params

/-! ## The buffers -/

theorem frameOk_overwrite {p : Params} {buf : List (Option Byte)} {n : Nat} (pl : List Byte) (h : FrameOk p buf n)
    (hl : pl.length ≤ p.maxPayloadLen) : FrameOk p (overwriteFrame pl buf) (pl.length + 1) where
  size := by rw [overwriteFrame_length _ _ (by rw [h.size]; omega), h.size]
  range := by omega
  written := by rw [overwriteFrame_take]; simp

theorem rxBufferOk_fresh (p : Params) : RxBufferOk p (List.replicate p.responseCapacity none) 0 where
  size := by simp
  range := Nat.zero_le _
  written := by simp
  rest := by simp

theorem rxBufferOk_store {p : Params} {rbuf : List (Option Byte)} {n : Nat} (b : Byte) (h : RxBufferOk p rbuf n)
    (hn : n < p.responseCapacity) : RxBufferOk p (rbuf.set n (some b)) (n + 1) where
  size := by simp [h.size]
  range := hn
  written := by
    have hlen : n < rbuf.length := by rw [h.size]; exact hn
    have hw := h.written
    rw [List.take_succ_eq_append_getElem (by simpa using hlen)]
    simp only [List.all_append, List.getElem_set_self, List.all_cons, List.all_nil, Option.isSome_some, Bool.and_true]
    rwa [List.take_set_of_le (Nat.le_refl n)]
  rest := by
    have hr := h.rest
    rw [List.drop_set_of_lt (Nat.lt_succ_self n)]
    rw [List.all_eq_true] at hr ⊢
    exact fun x hx => hr x (List.mem_of_mem_drop (i := 1) (by rwa [List.drop_drop]))

/-! ## The positions -/

theorem inAttempt_iff (s : State) :
    inAttempt s = true ↔ (s.env.ctx = .attempt ∧ 1 ≤ s.eng.attempt) ∨
      (s.env.ctx.sendsCommands = true ∧ ackWritten s.eng = true ∧ 1 ≤ s.eng.frameLen ∧ 1 ≤ s.eng.attempt) := by
  unfold inAttempt
  cases s.env.ctx <;> simp [Ctx.sendsCommands, and_assoc]

theorem sendsCommands_of_inAttempt {s : State} (h : inAttempt s = true) (hc : s.env.ctx ≠ .attempt) :
    s.env.ctx.sendsCommands = true ∧ ackWritten s.eng = true ∧ 1 ≤ s.eng.frameLen ∧ 1 ≤ s.eng.attempt :=
  ((inAttempt_iff s).mp h).resolve_left (fun ha => hc ha.1)

/-- What a transmission under way can be: a harness operation's own, the flush of `RESYNC`, or an attempt's. -/
def TxPurposeOk (s : State) : Prop :=
  (∃ b, s.env.ctx = .writeByte b) ∨ (∃ bs, s.env.ctx = .writeBytes bs) ∨ s.env.ctx = .transmit ∨
    (s.env.ctx = .resync ∧ s.eng.txb = .flush) ∨ inAttempt s = true

/-- What a read under way can be: a harness operation's own, or an attempt's. -/
def RxPurposeOk (s : State) : Prop :=
  s.env.ctx = .readByte ∨ (∃ m, s.env.ctx = .readBytes m) ∨ s.env.ctx = .resync ∨ s.env.ctx = .response ∨
    inAttempt s = true

/-- The transmitter's position: its purpose, and the next byte inside what is sent; a harness `WRITE_BYTE` has no index
(41_byte_transport.md R102). -/
theorem txPositionOk_iff (s : State) :
    txPositionOk s = true ↔ TxPurposeOk s ∧ ((∀ b, s.env.ctx ≠ .writeByte b) → s.eng.txi < txLen s) ∧
      (∀ bs, s.env.ctx = .writeBytes bs → bs.length ≤ 255) := by
  unfold txPositionOk TxPurposeOk inAttempt txLen
  cases s.env.ctx <;> simp [Ctx.sendsCommands]

/-- The receiver's position: its purpose, and room for the next byte; a harness `READ_BYTE` stores none
(41_byte_transport.md R101). -/
theorem rxPositionOk_iff (s : State) :
    rxPositionOk s = true ↔ RxPurposeOk s ∧ 1 ≤ s.eng.k ∧
      (s.env.ctx ≠ .readByte → s.eng.rcount < rxMax s ∧ rxMax s ≤ s.par.responseCapacity) := by
  unfold rxPositionOk RxPurposeOk inAttempt rxMax
  cases s.env.ctx <;> simp [Ctx.sendsCommands] <;> tauto

/-- The configuration's position: its index, and a divisor to write. -/
theorem cfgPositionOk_iff (s : State) :
    cfgPositionOk s = true ↔ s.eng.cfgJ < cfgLen s.par ∧
      ((∃ d f, s.env.ctx = .configure d f) ∨
        ((s.env.ctx = .reconfigure ∨ s.env.ctx = .engine) ∧ ∃ d, s.eng.divisor = some d)) := by
  unfold cfgPositionOk
  rw [Bool.and_eq_true_iff, decide_eq_true_eq]
  refine and_congr_right fun _ => ?_
  cases s.env.ctx <;> simp [Option.isSome_iff_exists]

/-- The contexts an attempt runs in. -/
theorem ctx_of_inAttempt {s : State} (h : inAttempt s = true) :
    s.env.ctx = .attempt ∨ s.env.ctx = .engine ∨ s.env.ctx = .sendCommand ∨ s.env.ctx = .runSequence := by
  unfold inAttempt at h
  revert h
  cases s.env.ctx <;> simp [Ctx.sendsCommands]

theorem readsForAttempt_of_inAttempt {s : State} (h : inAttempt s = true) : s.env.ctx.readsForAttempt = true := by
  rcases ctx_of_inAttempt h with hc | hc | hc | hc <;> rw [hc] <;> rfl

theorem txLen_frame_of_inAttempt {s : State} (h : inAttempt s = true) (hb : s.eng.txb = .frame) :
    txLen s = s.eng.frameLen := by
  rcases ctx_of_inAttempt h with hc | hc | hc | hc <;> simp [txLen, hc, hb]

theorem txLen_flush_of_inAttempt {s : State} (h : inAttempt s = true) (hb : s.eng.txb = .flush) :
    txLen s = s.par.responseCapacity := by
  rcases ctx_of_inAttempt h with hc | hc | hc | hc <;> simp [txLen, hc, hb]

theorem rxMax_of_inAttempt {s : State} (h : inAttempt s = true) : rxMax s = s.par.responseCapacity := by
  unfold rxMax
  rcases ctx_of_inAttempt h with hc | hc | hc | hc <;> rw [hc]

theorem txPositionOk_of_inAttempt {s : State} (h : inAttempt s = true) (hlt : s.eng.txi < txLen s) :
    txPositionOk s = true :=
  (txPositionOk_iff s).mpr ⟨.inr (.inr (.inr (.inr h))), fun _ => hlt, fun bs hbs => by
    rcases ctx_of_inAttempt h with hc | hc | hc | hc <;> rw [hc] at hbs <;> cases hbs⟩

/-- The start of a read that is an attempt's. -/
theorem rxPositionOk_beginRx {s : State} (p : RxPurpose) (h : inAttempt s = true) (hcap : 0 < s.par.responseCapacity) :
    rxPositionOk (beginRx p s) = true :=
  have hmax : rxMax (beginRx p s) = s.par.responseCapacity := rxMax_of_inAttempt (s := beginRx p s) h
  (rxPositionOk_iff _).mpr ⟨.inr (.inr (.inr (.inr h))), Nat.le_refl 1, fun _ => ⟨hmax ▸ hcap, Nat.le_of_eq hmax⟩⟩

/-- What is sent is no longer than `txi` may count (log entry 13). -/
theorem txLen_le {s : State} (hr : RangesOk s.par s.eng) (h : txPositionOk s = true) :
    txLen s ≤ max 255 (s.par.maxPayloadLen + 1) := by
  have hcap := hr.paramsOk.capacityHigh
  have hframe := hr.frame.range
  obtain ⟨-, -, hbs⟩ := (txPositionOk_iff s).mp h
  unfold txLen
  cases hx : s.env.ctx
  case writeByte => simp only; omega
  case writeBytes bs => have := hbs bs hx; simp only; omega
  all_goals cases s.eng.txb <;> simp only <;> omega

/-- A call that never returns is at no position. -/
theorem ctx_ne_stuck_of_positionOk {s : State} (h : positionOk s = true) : s.env.ctx ≠ .stuck := by
  intro hc
  cases hst : s.eng.st <;>
    simp [positionOk, hst, hc, cfgPositionOk, txPositionOk, rxPositionOk, inAttempt, Ctx.sendsCommands] at h

/-- The invariant's position, read at the micro-state the engine is in. -/
theorem Inv.position_at {s : State} {st : MicroState} (h : Inv s) (hf : s.eng.fault = 0#8) (hst : s.eng.st = st) :
    positionOk (goto st s) = true := by
  rw [← hst]; exact h.position hf

theorem RangesOk.inv_at {s : State} (h : RangesOk s.par s.eng) (hf : s.eng.fault = 0#8) (hpos : positionOk s = true) :
    Inv s :=
  h.inv (.inl hf) (fun hc => absurd hc (ctx_ne_stuck_of_positionOk hpos)) (fun _ => hpos)

theorem RangesOk.inv_of_fault {s : State} (h : RangesOk s.par s.eng) (k : FaultKind) (hf : s.eng.fault = k.code) : Inv s :=
  have hne : s.eng.fault ≠ 0#8 := hf ▸ k.code_ne_zero
  h.inv (.inr ⟨k, hf⟩) (fun _ => hne) (fun h0 => absurd h0 hne)

end Sys2Proof.Machine
end

section
/-! PROOF. Each procedure and each row of the step table keeps the invariant. -/

namespace Sys2Proof.Machine

/-! ## The procedures of R170 -/

theorem finish_inv {s : State} (v : RetVal) (hr : RangesOk s.par s.eng) (hf : s.eng.fault = 0#8) : Inv (finish v s) :=
  RangesOk.inv_at { hr with } hf rfl

theorem beginRx_ranges {s : State} (p : RxPurpose) (hr : RangesOk s.par s.eng) :
    RangesOk (beginRx p s).par (beginRx p s).eng :=
  { hr with rx := rxBufferOk_fresh _, k := hr.paramsOk.polls }

/-- A command started in a context that sends commands, with a payload in range. -/
theorem commandStarted_inv {s : State} (p : List Byte) (hr : RangesOk s.par s.eng) (hf : s.eng.fault = 0#8)
    (hc : s.env.ctx.sendsCommands = true) (hp : badPayloadLen s.par p = false) : Inv (commandStarted p s) := by
  obtain ⟨-, hp⟩ := (badPayloadLen_false _ _).mp hp
  have hranges : RangesOk (commandStarted p s).par (commandStarted p s).eng :=
    { hr with
      frame := frameOk_overwrite p hr.frame hp
      ackSize := by simp [commandStarted]
      attempt := hr.paramsOk.retry
      txi := Nat.zero_le _ }
  refine hranges.inv_at hf ?_
  have hatt : inAttempt (commandStarted p s) = true :=
    (inAttempt_iff _).mpr (.inr ⟨hc, rfl, Nat.succ_le_succ (Nat.zero_le _), Nat.le_refl 1⟩)
  exact txPositionOk_of_inAttempt hatt (by rw [txLen_frame_of_inAttempt hatt rfl]; exact Nat.succ_pos _)

theorem beginCommand_inv {s t : State} (c : Command) (h : beginCommand c s = .ok t) (hr : RangesOk s.par s.eng)
    (hf : s.eng.fault = 0#8) (hc : s.env.ctx.sendsCommands = true) : Inv t := by
  have hp := hr.paramsOk.payload c
  rw [beginCommand_eq, if_neg (by simp [hp])] at h
  cases h
  exact commandStarted_inv (s := { s with eng := { s.eng with cmdIdx := c } }) _ { hr with } hf hc hp

theorem commandDone_inv {s t : State} (r : CmdResult) (hr : RangesOk s.par s.eng) (hf : s.eng.fault = 0#8)
    (hc : s.env.ctx.sendsCommands = true) (h : commandDone r s = .ok t) : Inv t := by
  rcases commandDone_ok r s t h with ⟨-, rfl⟩ | ⟨-, c, -, hb⟩ | ⟨-, -, rfl⟩ | ⟨h1, h2, h3, rfl⟩
  · exact finish_inv _ hr hf
  · exact beginCommand_inv c hb { hr with } hf hc
  · exact finish_inv _ (s := { s with eng := { s.eng with cmdResult := _ } }) { hr with } hf
  · refine RangesOk.inv_at { hr with } hf ?_
    have he : s.env.ctx = .engine := by
      revert hc h1 h2; cases s.env.ctx <;> simp [Ctx.sendsCommands]
    simp [positionOk, goto, he, h3]

theorem beginAttempt_inv {s : State} (hr : RangesOk s.par s.eng) (hf : s.eng.fault = 0#8) (ha : inAttempt s = true)
    (hc : s.env.ctx ≠ .attempt) (hl : s.eng.attempt < s.par.retryLimit) : Inv (beginAttempt s) := by
  obtain ⟨hsends, hack, hlen, -⟩ := sendsCommands_of_inAttempt ha hc
  refine RangesOk.inv_at { hr with attempt := hl, txi := Nat.zero_le _ } hf ?_
  have hatt : inAttempt (beginAttempt s) = true :=
    (inAttempt_iff _).mpr (.inr ⟨hsends, hack, hlen, Nat.succ_le_succ (Nat.zero_le _)⟩)
  exact txPositionOk_of_inAttempt hatt (by rw [txLen_frame_of_inAttempt hatt rfl]; exact hlen)

theorem attemptEnd_inv {s : State} (o : AttemptOutcome) (hr : RangesOk s.par s.eng) (hf : s.eng.fault = 0#8)
    (ha : inAttempt s = true) : Inv (attemptEnd o s) := by
  rcases attemptEnd_cases o s with ⟨-, h⟩ | ⟨hc, -, h⟩ | ⟨hc, -, hl, h⟩ | ⟨hc, -, -, h⟩ <;> rw [h]
  · exact finish_inv _ hr hf
  · exact RangesOk.inv_at { hr with } hf (sendsCommands_of_inAttempt ha hc).1
  · exact beginAttempt_inv hr hf ha hc hl
  · exact RangesOk.inv_at { hr with } hf (sendsCommands_of_inAttempt ha hc).1

theorem txDone_inv {s : State} (hr : RangesOk s.par s.eng) (hf : s.eng.fault = 0#8) (hp : TxPurposeOk s) :
    Inv (txDone s) := by
  rcases txDone_cases s with ⟨h, -⟩ | ⟨⟨hb, hbs, ht⟩, h⟩
  · rw [h]; exact finish_inv _ hr hf
  have hctx : (s.env.ctx = .resync ∧ s.eng.txb = .flush) ∨ inAttempt s = true := by
    simpa [TxPurposeOk, hb, hbs, ht] using hp
  rcases h with ⟨htxb, h⟩ | ⟨-, h⟩ <;> rw [h]
  · have ha := hctx.resolve_left (fun hc => by rw [hc.2] at htxb; cases htxb)
    exact (beginRx_ranges _ hr).inv_at hf (rxPositionOk_beginRx _ ha hr.paramsOk.capacity_pos)
  · refine RangesOk.inv_at { hr with } hf ?_
    change (decide (s.env.ctx = .resync) || inAttempt s) = true
    rcases hctx with ⟨hc, -⟩ | ha
    · simp [hc]
    · simp [ha]

theorem judge_short {e : Engine} (h : judge e = .ok .short) : e.rcount ≤ 3 := by
  by_contra hc
  simp only [judge, isShort, decide_eq_true_eq, if_neg hc] at h
  revert h
  cases checksumGood e.rbuf with
  | error k => simp
  | ok good => cases good <;> cases ackMatches e.rbuf e.ack with
    | error k => simp
    | ok same => cases same <;> simp

theorem judge_not_short {e : Engine} {o : AttemptOutcome} (h : judge e = .ok o) (ho : o ≠ .short) : 4 ≤ e.rcount := by
  by_contra hc
  have hs : e.rcount ≤ 3 := by omega
  simp only [judge, isShort, hs, decide_true, if_true, Except.ok.injEq] at h
  exact ho h.symm

theorem rxDone_inv {s t : State} (hr : RangesOk s.par s.eng) (hf : s.eng.fault = 0#8)
    (hp : RxPurposeOk s) (h : rxDone s = .ok t) : Inv t := by
  have hatt (hc : s.env.ctx.readsForAttempt = true) : inAttempt s = true := by
    rcases hp with h | ⟨m, h⟩ | h | h | ha
    case inr.inr.inr.inr => exact ha
    all_goals rw [h] at hc; cases hc
  rcases rxDone_ok s t h with ⟨-, rfl⟩ | ⟨-, rfl⟩ | ⟨-, rfl⟩ | ⟨-, o, -, rfl⟩ | ⟨hc, -, rfl⟩ | ⟨hc, -, hj⟩
  · exact finish_inv _ hr hf
  · exact finish_inv _ hr hf
  · exact finish_inv _ hr hf
  · exact finish_inv _ hr hf
  · exact attemptEnd_inv _ hr hf (hatt hc)
  · have ha := hatt hc
    have goto_inv (st : MicroState) (hpos : positionOk (goto st s) = true) : Inv (goto st s) :=
      RangesOk.inv_at { hr with } hf hpos
    have position (st : MicroState) (n : Bool) (hn : n = true) : (inAttempt (goto st s) && n) = true := by
      rw [hn, Bool.and_true]; exact ha
    rcases hj with ⟨hj, rfl⟩ | ⟨hj, rfl⟩ | ⟨hj, rfl⟩ | ⟨-, rfl⟩
    · exact goto_inv _ (position .diagShort _ (decide_eq_true (judge_short hj)))
    · exact goto_inv _ (position .diagCsum _ (decide_eq_true (judge_not_short hj (by simp))))
    · exact goto_inv _ (position .diagNak _ (decide_eq_true (judge_not_short hj (by simp))))
    · exact attemptEnd_inv _ hr hf ha

end Sys2Proof.Machine
end

section
/-! PROOF. Each procedure and each row of the step table keeps the invariant. -/

namespace Sys2Proof.Machine

/-! ## The rows of the step table -/

theorem cfgStep_inv {s t : State} (hi : Inv s) (hf : s.eng.fault = 0#8) (hst : s.eng.st = .cfg) (h : cfgStep s = .ok t) :
    Inv t := by
  obtain ⟨hlt, hctx⟩ := (cfgPositionOk_iff s).mp (hi.position_at hf hst)
  have hr (r : LineReg) (v : Byte) : RangesOk (cfgWritten r v s).par (cfgWritten r v s).eng :=
    { hi.ranges with cfgJ := Nat.le_trans hlt (cfgLen_le _) }
  obtain ⟨r, v, -, ⟨hne, rfl⟩ | ⟨-, d, -, ⟨-, rfl⟩ | ⟨⟨hconf, hreconf⟩, hb⟩⟩⟩ := cfgStep_ok s t h
  · refine (hr r v).inv_at hf ?_
    have hst' : (cfgWritten r v s).eng.st = .cfg := hst
    unfold positionOk
    rw [hst']
    exact (cfgPositionOk_iff _).mpr ⟨Nat.lt_of_le_of_ne hlt hne, hctx⟩
  · exact finish_inv _ (s := cfgRecorded d _ (cfgWritten r v s)) { hr r v with } hf
  · refine beginCommand_inv _ hb { hr r v with } hf ?_
    change s.env.ctx.sendsCommands = true
    rcases hctx with ⟨d, f, hc⟩ | ⟨hc | hc, -⟩
    · exact absurd hc (hconf d f)
    · exact absurd hc hreconf
    · rw [hc]; rfl

theorem txPollStep_inv {s : State} (hi : Inv s) (hf : s.eng.fault = 0#8) (hst : s.eng.st = .txPoll) : Inv (txPollStep s) := by
  have hpos : txPositionOk s = true := hi.position_at hf hst
  unfold txPollStep
  split
  · exact RangesOk.inv_at { hi.ranges with } hf hpos
  · refine RangesOk.inv_at (s := lineRead .lsr s) hi.ranges hf ?_
    have hst' : (lineRead .lsr s).eng.st = .txPoll := hst
    unfold positionOk
    rw [hst']
    exact hpos

theorem txWriteStep_inv {s t : State} (hi : Inv s) (hf : s.eng.fault = 0#8) (hst : s.eng.st = .txWrite)
    (h : txWriteStep s = .ok t) : Inv t := by
  have hpos : txPositionOk s = true := hi.position_at hf hst
  have hle := txLen_le hi.ranges hpos
  obtain ⟨hp, hlt, hbs⟩ := (txPositionOk_iff s).mp hpos
  obtain ⟨b, -, ⟨-, rfl⟩ | ⟨hx, u, rfl, hend⟩⟩ := txWriteStep_ok s t h
  · exact txDone_inv (s := lineWrite .data b s) hi.ranges hf hp
  have hr : RangesOk s.par { s.eng with txi := s.eng.txi + 1 } :=
    { hi.ranges with txi := Nat.le_trans (hlt hx) hle }
  rcases hend with ⟨-, rfl⟩ | ⟨hne, rfl⟩
  · exact txDone_inv hr hf hp
  · exact RangesOk.inv_at { hr with } hf
      ((txPositionOk_iff _).mpr ⟨hp, fun _ => Nat.lt_of_le_of_ne (hlt hx) hne, hbs⟩)

theorem rxPollStep_inv {s t : State} (hi : Inv s) (hf : s.eng.fault = 0#8) (hst : s.eng.st = .rxPoll)
    (h : rxPollStep s = .ok t) : Inv t := by
  have hpos : rxPositionOk s = true := hi.position_at hf hst
  rcases rxPollStep_ok s t h with ⟨-, rfl⟩ | ⟨-, -, hd⟩ | ⟨-, hk, rfl⟩
  · exact RangesOk.inv_at { hi.ranges with } hf hpos
  · exact rxDone_inv (s := lineRead .lsr s) hi.ranges hf ((rxPositionOk_iff s).mp hpos).1 hd
  · refine RangesOk.inv_at { hi.ranges with } hf ?_
    exact Bool.and_eq_true_iff.mpr ⟨hpos, decide_eq_true (Nat.lt_of_le_of_ne hi.kRange hk)⟩

theorem rxSleepStep_inv {s : State} (hi : Inv s) (hf : s.eng.fault = 0#8) (hst : s.eng.st = .rxSleep) :
    Inv (rxSleepStep s) := by
  obtain ⟨hpos, hk⟩ := Bool.and_eq_true_iff.mp (hi.position_at hf hst)
  obtain ⟨hp, -, hroom⟩ := (rxPositionOk_iff _).mp hpos
  exact RangesOk.inv_at { hi.ranges with k := of_decide_eq_true hk } hf
    ((rxPositionOk_iff _).mpr ⟨hp, Nat.succ_pos _, hroom⟩)

theorem rxDataStep_inv {s t : State} (hi : Inv s) (hf : s.eng.fault = 0#8) (hst : s.eng.st = .rxData)
    (h : rxDataStep s = .ok t) : Inv t := by
  obtain ⟨hp, -, hroom⟩ := (rxPositionOk_iff s).mp (hi.position_at hf hst)
  rcases rxDataStep_ok s t h with ⟨-, rfl⟩ | ⟨hc, -, hd⟩ | ⟨hc, hne, rfl⟩
  · exact finish_inv _ (s := lineRead .data s) hi.ranges hf
  all_goals
    obtain ⟨hlt, hle⟩ := hroom hc
    have hr : RangesOk (byteStored s).par (byteStored s).eng :=
      { hi.ranges with rx := rxBufferOk_store _ hi.ranges.rx (Nat.lt_of_lt_of_le hlt hle) }
  · exact rxDone_inv hr hf hp hd
  · exact RangesOk.inv_at { hr with k := hr.paramsOk.polls } hf
      ((rxPositionOk_iff _).mpr ⟨hp, Nat.le_refl 1, fun _ => ⟨Nat.lt_of_le_of_ne hlt hne, hle⟩⟩)

theorem diagShortStep_inv {s : State} (hi : Inv s) (hf : s.eng.fault = 0#8) (hst : s.eng.st = .diagShort) :
    Inv (diagShortStep s) := by
  obtain ⟨ha, -⟩ := Bool.and_eq_true_iff.mp (hi.position_at hf hst)
  have ha' : inAttempt (diagShortStep s) = true := ha
  exact RangesOk.inv_at { hi.ranges with txi := Nat.zero_le _ } hf
    (txPositionOk_of_inAttempt ha' (by rw [txLen_flush_of_inAttempt ha' rfl]; exact hi.ranges.paramsOk.capacity_pos))

theorem settleFlushStep_inv {s : State} (hi : Inv s) (hf : s.eng.fault = 0#8) (hst : s.eng.st = .settleFlush) :
    Inv (settleFlushStep s) := by
  have hcap := hi.ranges.paramsOk.capacity_pos
  refine (beginRx_ranges (s := sleep s.par.flushSettle s) .drain hi.ranges).inv_at hf ?_
  rcases Bool.or_eq_true_iff.mp (hi.position_at hf hst) with hc | ha
  · have hc : s.env.ctx = .resync := of_decide_eq_true hc
    have hmax : rxMax (settleFlushStep s) = s.par.responseCapacity := by simp [rxMax, settleFlushStep, hc]
    exact (rxPositionOk_iff _).mpr ⟨.inr (.inr (.inl hc)), Nat.le_refl 1, fun _ => ⟨hmax ▸ hcap, Nat.le_of_eq hmax⟩⟩
  · exact rxPositionOk_beginRx _ ha hcap

theorem diagCsumStep_inv {s t : State} (hi : Inv s) (hf : s.eng.fault = 0#8) (hst : s.eng.st = .diagCsum)
    (h : diagCsumStep s = .ok t) : Inv t := by
  unfold diagCsumStep at h
  split at h
  · cases h
  · cases h
    exact RangesOk.inv_at { hi.ranges with } hf (hi.position_at hf hst)

theorem diagNakStep_inv {s t : State} (hi : Inv s) (hf : s.eng.fault = 0#8) (hst : s.eng.st = .diagNak)
    (h : diagNakStep s = .ok t) : Inv t := by
  obtain ⟨ha, -⟩ := Bool.and_eq_true_iff.mp (hi.position_at hf hst)
  obtain ⟨o, -, -, rfl⟩ := diagNakStep_ok s t h
  exact attemptEnd_inv (s := diag .nak [] s) o hi.ranges hf ha

/-- Every row of the step table keeps the invariant. -/
theorem microRow_inv {s t : State} (hi : Inv s) (hf : s.eng.fault = 0#8) (h : microRow s = .ok t) : Inv t := by
  unfold microRow at h
  cases hst : s.eng.st <;> simp only [hst] at h
  case idle => cases h; exact hi
  case cfg => exact cfgStep_inv hi hf hst h
  case txPoll => cases h; exact txPollStep_inv hi hf hst
  case txWrite => exact txWriteStep_inv hi hf hst h
  case rxPoll => exact rxPollStep_inv hi hf hst h
  case rxSleep => cases h; exact rxSleepStep_inv hi hf hst
  case rxData => exact rxDataStep_inv hi hf hst h
  case diagShort => cases h; exact diagShortStep_inv hi hf hst
  case settleFlush => cases h; exact settleFlushStep_inv hi hf hst
  case diagCsum => exact diagCsumStep_inv hi hf hst h
  case diagNak => exact diagNakStep_inv hi hf hst h
  case postOk => exact commandDone_inv (s := sleep _ s) .ok hi.ranges hf (hi.position_at hf hst) h
  case diagExh => cases h; exact RangesOk.inv_at { hi.ranges with } hf (hi.position_at hf hst)
  case exhSleep => exact commandDone_inv (s := sleep _ s) .fail hi.ranges hf (hi.position_at hf hst) h
  case returning => cases h; exact RangesOk.inv_at { hi.ranges with } hf (hi.position_at hf hst)
  case done => cases h; exact hi

theorem raiseFault_inv {s : State} (k : FaultKind) (hr : RangesOk s.par s.eng) : Inv (raiseFault k s) :=
  RangesOk.inv_of_fault { hr with } k rfl

theorem microStep_inv {s t : State} (hi : Inv s) (hf : s.eng.fault = 0#8) (h : microStep s = .next t) : Inv t := by
  obtain ⟨-, h | ⟨k, -, rfl⟩⟩ := microStep_next s t h
  · exact microRow_inv hi hf h
  · exact raiseFault_inv k hi.ranges

/-! ## The invocations -/

/-- A harness invocation keeps the invariant when its run does, from `IDLE` and without a fault. -/
theorem invoke_inv {refusal : Option Refusal} {run : State → Except FaultKind State} {s t : State} (hi : Inv s)
    (h : invoke refusal run s = .next t)
    (hrun : ∀ s0, s0.par = s.par → s0.eng = s.eng → mayInvoke s0 → refusal = none → run s0 = .ok t → Inv t) :
    Inv t := by
  rcases invoke_cases refusal run s with ⟨-, hr⟩ | ⟨-, x, -, hr⟩ | ⟨-, -, hf, hr⟩ | ⟨hm, hn, ⟨u, hu, hr⟩ | ⟨k, -, hr⟩⟩ <;>
    rw [hr] at h <;> cases h
  · exact hi.ranges.inv (s := hung s) hi.faultCode (fun _ => hf) (fun h0 => absurd h0 hf)
  · exact hrun { s with env := { s.env with ret := .noValue } } rfl rfl hm hn hu
  · exact RangesOk.inv_of_fault { hi.ranges with } k rfl

theorem triggerCall_inv {s : State} (r : Reason) (arg : Word) (hi : Inv s) : Inv (triggerCall r arg s) := by
  rcases triggerCall_cases r arg s with ⟨hf, h⟩ | ⟨-, -, h⟩ | ⟨-, -, -, h⟩ | ⟨hm, -, h⟩ <;> rw [h]
  · exact hi.ranges.inv (s := hung (emit (.trig r arg) s)) hi.faultCode (fun _ => hf) (fun h0 => absurd h0 hf)
  · exact hi.ranges.inv (s := returnCall .notHandled (emit (.trig r arg) s)) hi.faultCode hi.stuckFaulted hi.position
  · exact RangesOk.inv_of_fault { hi.ranges with } .reentrantTrigger rfl
  · refine RangesOk.inv_at { hi.ranges with cfgJ := Nat.zero_le _ } hm.2 ?_
    exact Bool.and_eq_true_iff.mpr ⟨decide_eq_true (cfgLen_pos _), rfl⟩

theorem sendFrame_inv {s t : State} (p : List Byte) (hr : RangesOk s.par s.eng) (hf : s.eng.fault = 0#8)
    (h : sendFrame p s = .ok t) : Inv t := by
  unfold sendFrame at h
  cases hb : buildFrame p s with
  | error k => rw [hb] at h; cases h
  | ok u =>
    rw [hb] at h
    cases h
    obtain ⟨hl, rfl⟩ := buildFrame_ok p s u hb
    refine RangesOk.inv_at { hr with frame := frameOk_overwrite p hr.frame hl, txi := Nat.zero_le _ } hf ?_
    exact decide_eq_true (Nat.succ_pos p.length)

end Sys2Proof.Machine
end

section
/-! PROOF. Every instruction and every step of the machine keeps the engine's invariant. -/

namespace Sys2Proof.Machine

/-- A started attempt of the harness, over the frame as it stands (42_frame_protocol.md R127). -/
theorem attemptStarted_inv {s t : State} (hr : RangesOk s.par s.eng) (hf : s.eng.fault = 0#8)
    (hl : s.eng.attempt < s.par.retryLimit)
    (h : t = if s.eng.frameLen = 0 then txDone (enter .attempt (beginAttempt s)) else enter .attempt (beginAttempt s)) :
    Inv t := by
  have hr' : RangesOk s.par (enter .attempt (beginAttempt s)).eng := { hr with attempt := hl, txi := Nat.zero_le _ }
  have ha : inAttempt (enter .attempt (beginAttempt s)) = true := (inAttempt_iff _).mpr (.inl ⟨rfl, Nat.succ_pos _⟩)
  subst h
  split
  · exact txDone_inv (s := enter .attempt (beginAttempt s)) hr' hf (.inr (.inr (.inr (.inr ha))))
  · rename_i hlen
    exact RangesOk.inv_at (s := enter .attempt (beginAttempt s)) hr' hf
      (txPositionOk_of_inAttempt ha (by rw [txLen_frame_of_inAttempt ha rfl]; exact Nat.pos_of_ne_zero hlen))

/-- A transmission of the flush bytes that is no attempt's: `RESYNC`'s own, or the preamble row's. -/
theorem flushStarted_inv {s : State} (c : Ctx) (hr : RangesOk s.par s.eng) (hf : s.eng.fault = 0#8)
    (hc : c = .resync ∨ c = .transmit) : Inv (enter c (beginTx .flush s)) := by
  refine RangesOk.inv_at { hr with txi := Nat.zero_le _ } hf ?_
  have hcap := hr.paramsOk.capacity_pos
  rcases hc with rfl | rfl
  · exact decide_eq_true hcap
  · exact decide_eq_true hcap

/-- What a mapped answer comes from. -/
theorem exists_of_map_eq_ok {α β : Type} {f : α → β} {x : Except FaultKind α} {b : β} (h : x.map f = .ok b) :
    ∃ a, x = .ok a ∧ f a = b := by
  cases x with
  | ok a => exact ⟨a, rfl, Except.ok.inj h⟩
  | error k => cases h

/-- The same for a run that the state before a refusal does not matter to. -/
theorem invoke_inv_of_ranges {refusal : Option Refusal} {run : State → Except FaultKind State} {s t : State} (hi : Inv s)
    (h : invoke refusal run s = .next t)
    (hrun : ∀ s0, RangesOk s0.par s0.eng → s0.eng.fault = 0#8 → run s0 = .ok t → Inv t) : Inv t :=
  invoke_inv hi h fun s0 hpar heng hm _ hu => hrun s0 (by rw [hpar, heng]; exact hi.ranges) hm.2 hu

/-- An invocation that only returns a value, whatever it computes the value from. -/
theorem invoke_returning_inv {refusal : Option Refusal} {run : State → Except FaultKind State} {s t : State} (hi : Inv s)
    (h : invoke refusal run s = .next t) (hrun : ∀ s0 u, run s0 = .ok u → ∃ v, u = finish v s0) : Inv t :=
  invoke_inv_of_ranges hi h fun s0 hr hf hu => by
    obtain ⟨v, rfl⟩ := hrun _ _ hu
    exact finish_inv v hr hf

theorem execReadBytes_inv {s t : State} (m : Byte) (hi : Inv s) (h : execReadBytes m s = .next t) : Inv t := by
  refine invoke_inv hi h fun s0 hpar heng hm hn hrun => ?_
  have hr : RangesOk s0.par s0.eng := by rw [hpar, heng]; exact hi.ranges
  have hle : m.toNat ≤ s0.par.responseCapacity := by
    by_contra hlt
    simp [← hpar, Nat.lt_of_not_le hlt] at hn
  split at hrun
  · cases hrun
    exact finish_inv _ { hr with rx := rxBufferOk_fresh _ } hm.2
  · rename_i hm0
    cases hrun
    refine RangesOk.inv_at { hr with rx := rxBufferOk_fresh _, k := hr.paramsOk.polls } hm.2 ?_
    have hpos : 0 < m.toNat := Nat.pos_of_ne_zero fun h0 => hm0 (BitVec.eq_of_toNat_eq h0)
    exact (rxPositionOk_iff _).mpr ⟨.inr (.inl ⟨_, rfl⟩), Nat.le_refl 1, fun _ => ⟨hpos, hle⟩⟩

theorem execWriteBytes_inv {s t : State} (bs : List Byte) (hlen : bs.length ≤ 255) (hi : Inv s)
    (h : execWriteBytes bs s = .next t) : Inv t := by
  refine invoke_inv_of_ranges hi h fun s0 hr hf hrun => ?_
  split at hrun <;> cases hrun
  · exact finish_inv _ { hr with txi := Nat.zero_le _ } hf
  · rename_i hne
    refine RangesOk.inv_at { hr with txi := Nat.zero_le _ } hf ?_
    refine Bool.and_eq_true_iff.mpr ⟨decide_eq_true ?_, decide_eq_true hlen⟩
    exact List.length_pos_iff.mpr hne

theorem execAttempt_inv {s t : State} (hi : Inv s) (h : execAttempt s = .next t) : Inv t := by
  refine invoke_inv hi h fun s0 hpar heng hm hn hrun => ?_
  have hl : s0.eng.attempt < s0.par.retryLimit := by
    by_contra hge
    simp [← hpar, ← heng, Nat.le_of_not_lt hge] at hn
  refine attemptStarted_inv (by rw [hpar, heng]; exact hi.ranges) hm.2 hl ?_
  by_cases h0 : s0.eng.frameLen = 0
  · rw [if_pos h0] at hrun ⊢; exact (Except.ok.inj hrun).symm
  · rw [if_neg h0] at hrun ⊢; exact (Except.ok.inj hrun).symm

/-- Every instruction keeps the invariant; a list of bytes to write is no longer than its count byte says (30_encoding.md
R82). -/
theorem exec_inv {s t : State} (i : Instr) (h : exec i s = .next t) (hi : Inv s)
    (hlen : ∀ bs, i = .writeBytes bs → bs.length ≤ 255) : Inv t := by
  have of_value {α : Type} {x : Except FaultKind α} {f : α → RetVal} {s0 u : State}
      (hu : x.map (fun a => finish (f a) s0) = .ok u) : ∃ v, u = finish v s0 := by
    obtain ⟨a, -, rfl⟩ := exists_of_map_eq_ok hu
    exact ⟨_, rfl⟩
  cases i <;> simp only [exec] at h
  case configure d f =>
    refine invoke_inv_of_ranges hi h fun s0 hr hf hrun => ?_
    cases hrun
    exact RangesOk.inv_at { hr with cfgJ := Nat.zero_le _ } hf ((cfgPositionOk_iff _).mpr ⟨cfgLen_pos _, .inl ⟨d, f, rfl⟩⟩)
  case readByte =>
    refine invoke_inv_of_ranges hi h fun s0 hr hf hrun => ?_
    cases hrun
    exact RangesOk.inv_at { hr with k := hr.paramsOk.polls } hf rfl
  case writeByte b =>
    refine invoke_inv_of_ranges hi h fun s0 hr hf hrun => ?_
    cases hrun
    exact RangesOk.inv_at { hr with } hf rfl
  case readBytes m => exact execReadBytes_inv m hi h
  case writeBytes bs => exact execWriteBytes_inv bs (hlen bs rfl) hi h
  case checksum bs => exact invoke_returning_inv hi h fun _ _ hu => ⟨_, (Except.ok.inj hu).symm⟩
  case checkLength => exact invoke_returning_inv hi h fun _ _ hu => ⟨_, (Except.ok.inj hu).symm⟩
  case computeDivisor t => exact invoke_returning_inv hi h fun _ _ hu => ⟨_, (Except.ok.inj hu).symm⟩
  case verifyChecksum => exact invoke_returning_inv hi h fun _ _ hu => of_value hu
  case compareAck => exact invoke_returning_inv hi h fun _ _ hu => of_value hu
  case buildFrame p =>
    refine invoke_inv_of_ranges hi h fun s0 hr hf hrun => ?_
    obtain ⟨u, hb, rfl⟩ := exists_of_map_eq_ok hrun
    obtain ⟨hl, rfl⟩ := buildFrame_ok _ _ _ hb
    exact finish_inv _ { hr with frame := frameOk_overwrite p hr.frame hl } hf
  case expectedAck p =>
    refine invoke_inv_of_ranges hi h fun s0 hr hf hrun => ?_
    obtain ⟨u, hb, rfl⟩ := exists_of_map_eq_ok hrun
    obtain ⟨-, -, rfl⟩ := expectedAck_ok _ _ _ hb
    exact finish_inv _ { hr with ackSize := rfl } hf
  case resync =>
    refine invoke_inv_of_ranges hi h fun s0 hr hf hrun => ?_
    cases hrun
    exact flushStarted_inv _ hr hf (.inl rfl)
  case attempt => exact execAttempt_inv hi h
  case sendCommand p =>
    refine invoke_inv_of_ranges hi h fun s0 hr hf hrun => ?_
    rw [startCommand_eq] at hrun
    split at hrun <;> cases hrun
    rename_i hp
    exact commandStarted_inv (s := enter .sendCommand s0) p hr hf rfl (by simpa using hp)
  case reconfigure =>
    refine invoke_inv_of_ranges hi h fun s0 hr hf hrun => ?_
    cases hrun
    exact RangesOk.inv_at { hr with cfgJ := Nat.zero_le _ } hf
      ((cfgPositionOk_iff _).mpr ⟨cfgLen_pos _, .inr ⟨.inl rfl, _, rfl⟩⟩)
  case runSequence => exact invoke_inv_of_ranges hi h fun s0 hr hf hrun => beginCommand_inv _ hrun hr hf rfl
  case frameWatchdogKill => exact invoke_inv_of_ranges hi h fun s0 hr hf hrun => sendFrame_inv _ hr hf hrun
  case frameShutdownWait => exact invoke_inv_of_ranges hi h fun s0 hr hf hrun => sendFrame_inv _ hr hf hrun
  case framePowerOff => exact invoke_inv_of_ranges hi h fun s0 hr hf hrun => sendFrame_inv _ hr hf hrun
  case commandFrame p => exact invoke_inv_of_ranges hi h fun s0 hr hf hrun => sendFrame_inv p hr hf hrun
  case ackResponse a tail =>
    refine invoke_inv_of_ranges hi h fun s0 hr hf hrun => ?_
    cases hrun
    refine RangesOk.inv_at { hr with rx := rxBufferOk_fresh _, k := hr.paramsOk.polls } hf ?_
    exact (rxPositionOk_iff _).mpr ⟨.inr (.inr (.inr (.inl rfl))), Nat.le_refl 1, fun _ =>
      ⟨hr.paramsOk.capacity_pos, Nat.le_refl _⟩⟩
  case expectedAckRef a =>
    refine invoke_inv_of_ranges hi h fun s0 hr hf hrun => ?_
    cases hrun
    exact finish_inv _ { hr with ackSize := rfl } hf
  case resyncPreamble =>
    refine invoke_inv_of_ranges hi h fun s0 hr hf hrun => ?_
    cases hrun
    exact flushStarted_inv _ hr hf (.inr rfl)
  case trigger r arg => cases h; exact triggerCall_inv r arg hi
  case reasonShutdown => cases h; exact triggerCall_inv _ _ (hi.of_env rfl)
  case reasonHalt => cases h; exact triggerCall_inv _ _ (hi.of_env rfl)

/-! ## The program's items -/

theorem takeList_length {bs l rest : List Byte} (h : takeList bs = some (l, rest)) : l.length ≤ 255 := by
  cases bs with
  | nil => cases h
  | cons n bs =>
    simp only [takeList, Option.ite_none_right_eq_some, Option.some.injEq, Prod.mk.injEq] at h
    obtain ⟨-, rfl, -⟩ := h
    have := n.isLt
    simp only [List.length_take]
    omega

theorem decodeList_ok {label : Byte} {mk : List Byte → Instr} {bs left : List Byte} {i : Instr}
    (h : decodeList label mk bs = .ok (i, left)) : ∃ l, i = mk l ∧ l.length ≤ 255 := by
  unfold decodeList at h
  split at h
  · rename_i l rest hl
    cases h
    exact ⟨l, rfl, takeList_length hl⟩
  · cases h

theorem whole_ok {r : Except DecodeError Instr} {i : Instr} {left : List Byte} (h : whole r = .ok (i, left)) :
    r = .ok i := by
  cases r <;> cases h
  rfl

theorem decodeOperands_writeBytes {label : Byte} {bs l left : List Byte}
    (h : decodeOperands label bs = .ok (.writeBytes l, left)) : l.length ≤ 255 := by
  unfold decodeOperands at h
  split at h
  case h_5 =>
    obtain ⟨l', hl, hle⟩ := decodeList_ok h
    cases hl
    exact hle
  case h_6 | h_7 | h_8 | h_14 =>
    obtain ⟨l', hl, -⟩ := decodeList_ok h
    cases hl
  case h_1 => unfold decodeConfigure at h; split at h <;> cases h
  case h_3 => unfold decodeWriteByte at h; split at h <;> cases h
  case h_4 => unfold decodeReadBytes at h; split at h <;> cases h
  case h_15 => unfold decodeTrigger at h; split at h <;> cases h
  case h_16 => unfold decodeComputeDivisor at h; split at h <;> cases h
  all_goals cases h

/-- A decoded list of bytes to write is no longer than its count byte says (30_encoding.md R82). -/
theorem decodeItem_writeBytes_length {par : Params} {item : ProgItem} {bs left : List Byte}
    (h : decodeItem par item = .ok (.writeBytes bs, left)) : bs.length ≤ 255 := by
  unfold decodeItem at h
  cases hf : item.format <;> simp only [hf] at h
  case invocation =>
    unfold decodeInvocation at h
    split at h
    · cases h
    · exact decodeOperands_writeBytes h
  case commandFrame =>
    have h := whole_ok h
    unfold decodeFrame at h
    split_ifs at h <;> cases h
  case response =>
    have h := whole_ok h
    unfold decodeResponse at h
    split at h
    · cases h
    · split_ifs at h; cases h
    · cases h
  case reference =>
    have h := whole_ok h
    unfold decodeReference at h
    split at h
    · cases h
    · split_ifs at h; cases h
    · cases h
  case preamble =>
    have h := whole_ok h
    unfold decodePreamble at h
    split_ifs at h; cases h
  case reason =>
    have h := whole_ok h
    unfold decodeReason at h
    split at h
    · cases h
    · split_ifs at h <;> cases h
    · cases h

/-! ## The step -/

theorem attachNow_inv {a : AttachInput} (s : State) (hp : paramsValid a.params a.base = true) : Inv (attachNow a s) := by
  refine RangesOk.inv_at (s := attachNow a s) ?_ rfl rfl
  exact {
    params := hp
    frame := ⟨by simp [Engine.attached], Nat.zero_le _, rfl⟩
    ackSize := rfl
    rx := rxBufferOk_fresh _
    cfgJ := Nat.zero_le _
    attempt := Nat.zero_le _
    k := Nat.zero_le _
    txi := Nat.zero_le _ }

theorem step_inv {s t : State} (hi : Inv s) (h : step s = .next t) : Inv t := by
  rcases step_cases s with ⟨a, -, hs⟩ | ⟨c, -, -, hs⟩ | ⟨-, -, hs⟩ | ⟨-, -, hrun, hs⟩ | ⟨-, -, -, hs⟩
  · rw [hs] at h
    unfold attach at h
    split at h
    · rename_i hp
      cases h
      exact attachNow_inv s hp
    · cases h
  · rw [hs] at h; cases h
    exact triggerCall_inv _ _ (hi.of_env rfl)
  · rw [hs] at h; cases h; exact hi
  · rw [hs] at h
    have hf : s.eng.fault = 0#8 := by simp [engineRunning] at hrun; exact hrun.1
    exact microStep_inv hi hf h
  · rcases hs with ⟨-, hs⟩ | ⟨e, -, hs⟩ | ⟨i, s1, hfetch, hs⟩ <;> rw [hs] at h
    · cases h; exact hi
    · cases h
    · obtain ⟨item, left, rest, -, hd, rfl⟩ := fetch_ok s s1 i hfetch
      exact exec_inv i h (hi.of_env rfl) (fun bs hbs => decodeItem_writeBytes_length (hbs ▸ hd))

/-- Settles O55: attach resets to a state of the invariant, and a call, a row of the step table, a fault or an invocation
each keeps it. -/
theorem everyStepKeepsTheInvariant : Obligations.EveryStepKeepsTheInvariant :=
  fun _ _ => step_inv

end Sys2Proof.Machine
end

section
/-! PROOF. The order of one step, and the addresses of the line registers. -/

namespace Sys2Proof.Machine

/-- Settles O8, each case by the tests of `step` in their order. -/
theorem stepServesRequestsBeforeTheProgram : Obligations.StepServesRequestsBeforeTheProgram := by
  refine ⟨fun s a ha => ?_, fun s c ha hp => ?_, fun s ⟨ha, hp⟩ hc => ?_, fun s ⟨⟨ha, hp⟩, hc, hr⟩ => ?_,
    fun s ⟨ha, hp⟩ hc hr hprog => ?_⟩
  · simp [step, ha]
  · simp [step, ha, hp]
  · simp [step, ha, hp, hc]
  · simp [step, ha, hp, hc, hr]
  · simp [step, ha, hp, hc, hr, fetch, hprog]

/-- The window of 00_scope.md R7 leaves room for every register with an index up to 7. -/
theorem register_in_window {p : Params} {base : Nat} (h : paramsValid p base = true) {i : Nat} (hi : i ≤ 7) :
    base + p.regStride * i + 3 < 2 ^ p.addrWidth := by
  have hw : base + p.regStride * 7 + 3 ≤ 2 ^ p.addrWidth - 1 := by
    simp only [paramsValid, Bool.and_eq_true, decide_eq_true_eq] at h
    simp only [h]
  have hmul : p.regStride * i ≤ p.regStride * 7 := Nat.mul_le_mul_left _ hi
  have hpos : 0 < 2 ^ p.addrWidth := Nat.two_pow_pos _
  omega

/-- The base stands on a multiple of 4, and the address space holds whole words (00_scope.md R7). -/
theorem base_aligned {p : Params} {base : Nat} (h : paramsValid p base = true) : base % 4 = 0 ∧ 4 ∣ 2 ^ p.addrWidth := by
  have hb : base % 4 = 0 := by
    simp only [paramsValid, Bool.and_eq_true, decide_eq_true_eq] at h
    simp only [h]
  have hw := register_in_window h (Nat.zero_le 7)
  refine ⟨hb, ?_⟩
  have hwidth : 2 ≤ p.addrWidth := by
    by_contra hlt
    have : 2 ^ p.addrWidth ≤ 2 ^ 1 := Nat.pow_le_pow_right (by decide) (by omega)
    omega
  exact pow_dvd_pow 2 hwidth

/-- Settles O51: no address of the window wraps, and the modulus is a multiple of 4. -/
theorem registerAddressesNeitherWrapNorMisalign : Obligations.RegisterAddressesNeitherWrapNorMisalign := by
  intro p base r h
  refine ⟨fun hi => ?_, fun hs => ?_⟩
  · have := register_in_window h hi
    exact Nat.mod_eq_of_lt (by omega)
  · obtain ⟨hb, hdvd⟩ := base_aligned h
    rw [regAddr, Nat.mod_mod_of_dvd _ hdvd, Nat.add_mod, Nat.mul_mod, hb, hs]
    simp

end Sys2Proof.Machine
end

section
/-! PROOF. The rows of the step table that have more than one way on, one equation for each way. -/

namespace Sys2Proof.Machine

/-- The end of a drain read ends the attempt. -/
theorem rxDone_of_drain {s : State} (hc : s.env.ctx.readsForAttempt = true) (hx : s.eng.rxp = .drain) :
    rxDone s = .ok (attemptEnd .short s) := by
  revert hc
  rw [rxDone]
  cases s.env.ctx <;> simp [Ctx.readsForAttempt, hx]

/-- The end of a response read goes on by the outcome of the tests. -/
theorem rxDone_of_judge {s : State} {o : AttemptOutcome} (hc : s.env.ctx.readsForAttempt = true) (hx : s.eng.rxp = .resp)
    (ho : judge s.eng = .ok o) :
    rxDone s = .ok (if o = .acked then attemptEnd .acked s else goto (afterTests o) s) := by
  revert hc
  rw [rxDone]
  cases o <;> cases s.env.ctx <;> simp [Ctx.readsForAttempt, hx, ho, afterTests]

theorem rxDone_of_judge_error {s : State} {k : FaultKind} (hc : s.env.ctx.readsForAttempt = true) (hx : s.eng.rxp = .resp)
    (hk : judge s.eng = .error k) : rxDone s = .error k := by
  revert hc
  rw [rxDone]
  cases s.env.ctx <;> simp [Ctx.readsForAttempt, hx, hk]

/-- What follows the last configuration write: a harness configuration ends, the engine's goes on with the first command. -/
def afterConfiguration (s : State) : Except FaultKind State :=
  match s.env.ctx with
  | .configure _ _ => .ok (finish .noValue s)
  | .reconfigure => .ok (finish .noValue s)
  | _ => beginCommand .watchdogKill s

/-- A configuration write that is not the last. -/
theorem cfgStep_of_more {s : State} {r : LineReg} {v : Byte}
    (hrv : (cfgSeq s.par (cfgOperands s).1 (cfgOperands s).2)[s.eng.cfgJ]? = some (r, some v))
    (hl : s.eng.cfgJ + 1 ≠ cfgLen s.par) : cfgStep s = .ok (cfgWritten r v s) := by
  unfold cfgStep
  rw [hrv]
  dsimp only
  rw [if_neg hl]
  rfl

/-- The last configuration write. -/
theorem cfgStep_of_last {s : State} {r : LineReg} {v : Byte} {d : Half}
    (hrv : (cfgSeq s.par (cfgOperands s).1 (cfgOperands s).2)[s.eng.cfgJ]? = some (r, some v))
    (hl : s.eng.cfgJ + 1 = cfgLen s.par) (hd : (cfgOperands s).1 = some d) :
    cfgStep s = afterConfiguration (cfgRecorded d (cfgOperands s).2 (cfgWritten r v s)) := by
  unfold cfgStep afterConfiguration
  rw [hrv, hd]
  dsimp only
  rw [if_pos hl]
  have hctx : (cfgRecorded d (cfgOperands s).2 (cfgWritten r v s)).env.ctx = s.env.ctx := rfl
  rw [hctx]
  cases s.env.ctx <;> rfl

theorem cfgStep_of_no_value {s : State}
    (h : ∀ r v, (cfgSeq s.par (cfgOperands s).1 (cfgOperands s).2)[s.eng.cfgJ]? ≠ some (r, some v)) :
    cfgStep s = .error .unwritten := by
  unfold cfgStep
  rcases hw : (cfgSeq s.par (cfgOperands s).1 (cfgOperands s).2)[s.eng.cfgJ]? with _ | ⟨r, _ | v⟩
  · rfl
  · rfl
  · exact absurd hw (h r v)

theorem cfgStep_of_no_divisor {s : State} (hl : s.eng.cfgJ + 1 = cfgLen s.par) (hd : (cfgOperands s).1 = none) :
    cfgStep s = .error .unwritten := by
  unfold cfgStep
  rw [hd]
  rcases (cfgSeq s.par none (cfgOperands s).2)[s.eng.cfgJ]? with _ | ⟨r, _ | v⟩
  · rfl
  · rfl
  · dsimp only
    rw [if_pos hl]

/-- The state after a byte of a sequence is written to `DATA` (41_byte_transport.md R105). -/
def byteSent (b : Byte) (s : State) : State :=
  { lineWrite .data b s with eng := { s.eng with txi := s.eng.txi + 1 } }

theorem txPollStep_of_ready {s : State} (h : holdingEmpty s.par (lineByte s) = true) :
    txPollStep s = goto .txWrite (lineRead .lsr s) := if_pos h

theorem txPollStep_of_busy {s : State} (h : holdingEmpty s.par (lineByte s) = false) : txPollStep s = lineRead .lsr s :=
  if_neg (by simp [h])

theorem txWriteStep_of_writeByte {s : State} {b : Byte} (hc : s.env.ctx = .writeByte b) :
    txWriteStep s = .ok (txDone (lineWrite .data b s)) := by
  have hb : txByte s = .ok b := by rw [txByte, hc]
  rw [txWriteStep, hb]
  dsimp only
  rw [hc]

theorem txWriteStep_of_error {s : State} {k : FaultKind} (hb : txByte s = .error k) : txWriteStep s = .error k := by
  rw [txWriteStep, hb]

theorem txWriteStep_of_last {s : State} {b : Byte} (hc : ∀ x, s.env.ctx ≠ .writeByte x) (hb : txByte s = .ok b)
    (hl : s.eng.txi + 1 = txLen s) : txWriteStep s = .ok (txDone (byteSent b s)) := by
  rw [txWriteStep, hb]
  dsimp only
  rw [if_pos hl]
  cases hx : s.env.ctx
  case writeByte x => exact absurd hx (hc x)
  all_goals rfl

theorem txWriteStep_of_more {s : State} {b : Byte} (hc : ∀ x, s.env.ctx ≠ .writeByte x) (hb : txByte s = .ok b)
    (hl : s.eng.txi + 1 ≠ txLen s) : txWriteStep s = .ok (goto .txPoll (byteSent b s)) := by
  rw [txWriteStep, hb]
  dsimp only
  rw [if_neg hl]
  cases hx : s.env.ctx
  case writeByte x => exact absurd hx (hc x)
  all_goals rfl

theorem rxPollStep_of_ready {s : State} (h : dataReady s.par (lineByte s) = true) :
    rxPollStep s = .ok (goto .rxData (lineRead .lsr s)) := if_pos h

theorem rxPollStep_of_timeout {s : State} (h : dataReady s.par (lineByte s) = false) (hk : s.eng.k = s.par.readPollLimit) :
    rxPollStep s = rxDone (lineRead .lsr s) := by
  rw [rxPollStep, if_neg (by simp [h]), if_pos hk]

theorem rxPollStep_of_waiting {s : State} (h : dataReady s.par (lineByte s) = false) (hk : s.eng.k ≠ s.par.readPollLimit) :
    rxPollStep s = .ok (goto .rxSleep (lineRead .lsr s)) := by
  rw [rxPollStep, if_neg (by simp [h]), if_neg hk]

theorem rxDataStep_of_readByte {s : State} (hc : s.env.ctx = .readByte) :
    rxDataStep s = .ok (finish (.received (some (lineByte s))) (lineRead .data s)) := by
  rw [rxDataStep]
  dsimp only
  rw [hc]

theorem rxDataStep_of_last {s : State} (hc : s.env.ctx ≠ .readByte) (hl : s.eng.rcount + 1 = rxMax s) :
    rxDataStep s = rxDone (byteStored s) := by
  rw [rxDataStep]
  dsimp only
  rw [if_pos hl]
  cases hx : s.env.ctx
  case readByte => exact absurd hx hc
  all_goals rfl

/-- The state at the first poll for the next byte of a read. -/
def nextByte (s : State) : State := { s with eng := { s.eng with k := 1, st := .rxPoll } }

theorem rxDataStep_of_more {s : State} (hc : s.env.ctx ≠ .readByte) (hl : s.eng.rcount + 1 ≠ rxMax s) :
    rxDataStep s = .ok (nextByte (byteStored s)) := by
  rw [rxDataStep]
  dsimp only
  rw [if_neg hl]
  cases hx : s.env.ctx
  case readByte => exact absurd hx hc
  all_goals rfl

theorem diagNakStep_of_command {s : State} (hc : s.env.ctx ≠ .attempt) :
    diagNakStep s = .ok (attemptEnd .nak (diag .nak [] s)) := by
  rw [diagNakStep]
  cases hx : s.env.ctx
  case attempt => exact absurd hx hc
  all_goals rfl

theorem diagNakStep_of_attempt {s : State} (hc : s.env.ctx = .attempt) :
    diagNakStep s = (checksumGood s.eng.rbuf).map
      (fun good => attemptEnd (if good = true then .nak else .badCsum) (diag .nak [] s)) := by
  rw [diagNakStep]
  rw [hc]
  rcases checksumGood s.eng.rbuf with k | good | good <;> rfl

end Sys2Proof.Machine
end

section
/-! PROOF. Under the invariant no row meets an unwritten byte or an index outside its buffer (60_exceptions.md R188). -/

namespace Sys2Proof.Machine

/-! ## What can be read -/

theorem written_of_le {buf : List (Option Byte)} {m n : Nat} (h : (buf.take n).all Option.isSome = true) (hmn : m ≤ n) :
    (buf.take m).all Option.isSome = true := by
  rw [List.all_eq_true] at h ⊢
  exact fun x hx => h x (List.take_subset_take_left buf hmn hx)

theorem exists_readAt_ok {buf : List (Option Byte)} {i n : Nat} (h : (buf.take n).all Option.isSome = true) (hi : i < n)
    (hn : n ≤ buf.length) : ∃ b, readAt buf i = .ok b := by
  have hlt : i < buf.length := Nat.lt_of_lt_of_le hi hn
  have hmem : buf[i] ∈ buf.take n := List.mem_take_iff_getElem.mpr ⟨i, by omega, rfl⟩
  obtain ⟨b, hb⟩ := Option.isSome_iff_exists.mp (List.all_eq_true.mp h _ hmem)
  exact ⟨b, (readAt_eq_ok_iff _ _ _).mpr (by rw [List.getElem?_eq_getElem hlt, hb])⟩

theorem exists_readFirst_rbuf_ok {p : Params} {rbuf : List (Option Byte)} {n m : Nat} (h : RxBufferOk p rbuf n) (hm : m ≤ n) :
    ∃ bs, readFirst m rbuf = .ok bs :=
  readFirst_of_written m rbuf (by rw [h.size]; exact Nat.le_trans hm h.range) (written_of_le h.written hm)

theorem exists_checksumGood_ok {p : Params} {rbuf : List (Option Byte)} {n : Nat} (h : RxBufferOk p rbuf n) (hn : 4 ≤ n) :
    ∃ good, checksumGood rbuf = .ok good := by
  obtain ⟨bs, hbs⟩ := exists_readFirst_rbuf_ok h hn
  exact ⟨_, by rw [checksumGood, hbs]⟩

theorem exists_ackMatches_ok {p : Params} {rbuf ack : List (Option Byte)} {n : Nat} (h : RxBufferOk p rbuf n) (hn : 3 ≤ n)
    (hl : ack.length = 3) (hw : ack.all Option.isSome = true) : ∃ same, ackMatches rbuf ack = .ok same := by
  obtain ⟨got, hgot⟩ := exists_readFirst_rbuf_ok h hn
  obtain ⟨want, hwant⟩ := readFirst_of_written 3 ack (Nat.le_of_eq hl.symm) (by rwa [List.take_of_length_le (Nat.le_of_eq hl)])
  exact ⟨_, by rw [ackMatches, hgot, hwant]⟩

/-- The tests of a response answer, once `ack` is written. -/
theorem exists_judge_ok {p : Params} {e : Engine} (h : RangesOk p e) (hack : ackWritten e = true) : ∃ o, judge e = .ok o := by
  by_cases hs : e.rcount ≤ 3
  · exact ⟨.short, by simp [judge, isShort, hs]⟩
  · obtain ⟨good, hgood⟩ := exists_checksumGood_ok h.rx (by omega)
    obtain ⟨same, hsame⟩ := exists_ackMatches_ok h.rx (by omega) h.ackSize hack
    cases good with
    | false => exact ⟨.badCsum, by simp [judge, isShort, hs, hgood]⟩
    | true => cases same with
      | false => exact ⟨.nak, by simp [judge, isShort, hs, hgood, hsame]⟩
      | true => exact ⟨.acked, by simp [judge, isShort, hs, hgood, hsame]⟩

/-! ## The procedures -/

theorem exists_beginCommand_ok {s : State} (c : Command) (h : ParamsOk s.par) : ∃ t, beginCommand c s = .ok t :=
  ⟨_, by rw [beginCommand_eq, if_neg (by simp [h.payload c])]⟩

theorem exists_commandDone_ok {s : State} (r : CmdResult) (h : ParamsOk s.par) : ∃ t, commandDone r s = .ok t := by
  unfold commandDone
  split
  · exact ⟨_, rfl⟩
  · split
    · exact exists_beginCommand_ok _ h
    · split <;> exact ⟨_, rfl⟩

/-- Whether a response read under way will find `ack` written: always, but for a harness `ATTEMPT` or a delivered response. -/
def AckReadable (s : State) : Prop := (s.env.ctx ≠ .attempt ∧ s.env.ctx ≠ .response) ∨ ackWritten s.eng = true

theorem ackWritten_of_inAttempt {s : State} (ha : inAttempt s = true) (h : AckReadable s) : ackWritten s.eng = true :=
  h.elim (fun hc => (sendsCommands_of_inAttempt ha hc.1).2.1) id

theorem exists_rxDone_ok {s : State} (hr : RangesOk s.par s.eng) (hp : RxPurposeOk s) (hack : AckReadable s) :
    ∃ t, rxDone s = .ok t := by
  rcases hp with hc | ⟨m, hc⟩ | hc | hc | ha
  · exact ⟨_, by rw [rxDone, hc]⟩
  · exact ⟨_, by rw [rxDone, hc]⟩
  · exact ⟨_, by rw [rxDone, hc]⟩
  · obtain ⟨o, ho⟩ := exists_judge_ok hr (hack.resolve_left fun h => h.2 hc)
    exact ⟨_, by rw [rxDone, hc, ho]⟩
  · obtain ⟨o, ho⟩ := exists_judge_ok hr (ackWritten_of_inAttempt ha hack)
    have hc := readsForAttempt_of_inAttempt ha
    cases hx : s.eng.rxp with
    | drain => exact ⟨_, rxDone_of_drain hc hx⟩
    | resp => exact ⟨_, rxDone_of_judge hc hx ho⟩

/-! ## The rows of the step table -/

/-- Every write of the sequence has a value once the divisor has one (41_byte_transport.md R100). -/
theorem exists_cfgSeq_entry (p : Params) (d : Half) (f : Byte) {j : Nat} (hj : j < cfgLen p) :
    ∃ r v, (cfgSeq p (some d) f)[j]? = some (r, some v) := by
  have hall : ∀ x ∈ cfgSeq p (some d) f, ∃ v, x.2 = some v := by
    unfold cfgSeq
    cases p.lineBinding <;> simp
  have hlt : j < (cfgSeq p (some d) f).length := by rwa [cfgSeq_length]
  obtain ⟨v, hv⟩ := hall _ (List.getElem_mem hlt)
  exact ⟨_, v, by rw [List.getElem?_eq_getElem hlt, ← hv]⟩

/-- The divisor being configured is written wherever the engine stands in `CFG`. -/
theorem exists_cfgOperands_divisor {s : State} (hpos : cfgPositionOk s = true) : ∃ d, (cfgOperands s).1 = some d := by
  rcases ((cfgPositionOk_iff s).mp hpos).2 with ⟨d, f, hc⟩ | ⟨hc | hc, d, hd⟩
  · exact ⟨d, by simp [cfgOperands, hc]⟩
  · exact ⟨d, by simp [cfgOperands, hc, hd]⟩
  · exact ⟨d, by simp [cfgOperands, hc, hd]⟩

theorem exists_afterConfiguration_ok {s : State} (hp : ParamsOk s.par) : ∃ t, afterConfiguration s = .ok t := by
  unfold afterConfiguration
  cases s.env.ctx
  case configure => exact ⟨_, rfl⟩
  case reconfigure => exact ⟨_, rfl⟩
  all_goals exact exists_beginCommand_ok _ hp

theorem exists_cfgStep_ok {s : State} (hp : ParamsOk s.par) (hpos : cfgPositionOk s = true) : ∃ t, cfgStep s = .ok t := by
  obtain ⟨d, hd⟩ := exists_cfgOperands_divisor hpos
  obtain ⟨r, v, hrv⟩ := exists_cfgSeq_entry s.par d (cfgOperands s).2 ((cfgPositionOk_iff s).mp hpos).1
  rw [← hd] at hrv
  by_cases hl : s.eng.cfgJ + 1 = cfgLen s.par
  · rw [cfgStep_of_last hrv hl hd]
    exact exists_afterConfiguration_ok hp
  · exact ⟨_, cfgStep_of_more hrv hl⟩

theorem exists_txByte_ok {s : State} (hr : RangesOk s.par s.eng) (hpos : txPositionOk s = true) : ∃ b, txByte s = .ok b := by
  obtain ⟨-, hlt, -⟩ := (txPositionOk_iff s).mp hpos
  unfold txByte
  unfold txLen at hlt
  cases hc : s.env.ctx <;> simp only [hc] at hlt ⊢
  case writeByte b => exact ⟨b, rfl⟩
  case writeBytes bs =>
    have hlt := hlt (by simp)
    exact ⟨_, (readReg_eq_ok_iff _ _).mpr (List.getElem?_eq_getElem hlt)⟩
  all_goals
    cases hb : s.eng.txb <;> simp only [hb] at hlt ⊢
    case frame =>
      exact exists_readAt_ok hr.frame.written (hlt (by simp)) (by rw [hr.frame.size]; exact hr.frame.range)
    case flush => exact ⟨_, rfl⟩

theorem exists_txWriteStep_ok {s : State} (hr : RangesOk s.par s.eng) (hpos : txPositionOk s = true) :
    ∃ t, txWriteStep s = .ok t := by
  obtain ⟨b, hb⟩ := exists_txByte_ok hr hpos
  unfold txWriteStep
  simp only [hb]
  split
  · exact ⟨_, rfl⟩
  · split <;> exact ⟨_, rfl⟩

theorem exists_rxPollStep_ok {s : State} (hr : RangesOk s.par s.eng) (hpos : rxPositionOk s = true) (hack : AckReadable s) :
    ∃ t, rxPollStep s = .ok t := by
  unfold rxPollStep
  split
  · exact ⟨_, rfl⟩
  · split
    · exact exists_rxDone_ok (s := lineRead .lsr s) hr ((rxPositionOk_iff s).mp hpos).1 hack
    · exact ⟨_, rfl⟩

theorem exists_rxDataStep_ok {s : State} (hr : RangesOk s.par s.eng) (hpos : rxPositionOk s = true) (hack : AckReadable s) :
    ∃ t, rxDataStep s = .ok t := by
  obtain ⟨hp, -, hroom⟩ := (rxPositionOk_iff s).mp hpos
  unfold rxDataStep
  split
  · exact ⟨_, rfl⟩
  · rename_i hc
    obtain ⟨hlt, hle⟩ := hroom hc
    split
    · exact exists_rxDone_ok (s := byteStored s)
        { hr with rx := rxBufferOk_store _ hr.rx (Nat.lt_of_lt_of_le hlt hle) } hp hack
    · exact ⟨_, rfl⟩

theorem exists_diagNakStep_ok {s : State} (hr : RangesOk s.par s.eng) (hn : 4 ≤ s.eng.rcount) : ∃ t, diagNakStep s = .ok t := by
  obtain ⟨good, hgood⟩ := exists_checksumGood_ok hr.rx hn
  unfold diagNakStep
  split
  · cases good <;> exact ⟨_, by rw [hgood]⟩
  · exact ⟨_, rfl⟩

/-- Every row answers without a fault, where the `ack` it may read is written. -/
theorem exists_microRow_ok {s : State} (hi : Inv s) (hf : s.eng.fault = 0#8) (hack : AckReadable s) : ∃ t, microRow s = .ok t := by
  have hr := hi.ranges
  unfold microRow
  cases hst : s.eng.st <;> simp only
  case cfg => exact exists_cfgStep_ok hr.paramsOk (hi.position_at hf hst)
  case txWrite => exact exists_txWriteStep_ok hr (hi.position_at hf hst)
  case rxPoll => exact exists_rxPollStep_ok hr (hi.position_at hf hst) hack
  case rxData => exact exists_rxDataStep_ok hr (hi.position_at hf hst) hack
  case diagCsum =>
    obtain ⟨-, hn⟩ := Bool.and_eq_true_iff.mp (hi.position_at hf hst)
    obtain ⟨bs, hbs⟩ := exists_readFirst_rbuf_ok hr.rx (of_decide_eq_true hn)
    exact ⟨_, by rw [diagCsumStep, hbs]⟩
  case diagNak =>
    obtain ⟨-, hn⟩ := Bool.and_eq_true_iff.mp (hi.position_at hf hst)
    exact exists_diagNakStep_ok hr (of_decide_eq_true hn)
  case postOk => exact exists_commandDone_ok _ hr.paramsOk
  case exhSleep => exact exists_commandDone_ok _ hr.paramsOk
  all_goals exact ⟨_, rfl⟩

/-- The index of each row names an element. -/
theorem Inv.indexInRange {s : State} (hi : Inv s) (hf : s.eng.fault = 0#8) : indexInRange s = true := by
  unfold Machine.indexInRange
  cases hst : s.eng.st <;> simp only
  case cfg => exact decide_eq_true ((cfgPositionOk_iff s).mp (hi.position_at hf hst)).1
  case txWrite =>
    split
    · rfl
    · rename_i hc
      exact decide_eq_true (((txPositionOk_iff s).mp (hi.position_at hf hst)).2.1 hc)
  case rxData =>
    split
    · rfl
    · rename_i hc
      obtain ⟨hlt, hle⟩ := ((rxPositionOk_iff s).mp (hi.position_at hf hst)).2.2 hc
      exact decide_eq_true (by rw [hi.rbufSize]; omega)

/-! ## The step -/

theorem exec_ne_fault (i : Instr) (s : State) (f : Fault) : exec i s ≠ .fault f := by
  cases hc : isCall i with
  | true =>
    obtain ⟨r, arg, n, h⟩ := exec_call i s hc
    rw [h]; simp
  | false =>
    obtain ⟨run, h⟩ := exec_invocation i s hc
    rw [h]
    rcases invoke_cases (refusalOf i s) run s with ⟨-, h⟩ | ⟨-, x, -, h⟩ | ⟨-, -, -, h⟩ | ⟨-, -, ⟨t, -, h⟩ | ⟨k, -, h⟩⟩ <;>
      simp [h]

theorem fault_eq_zero_of_engineRunning {s : State} (h : engineRunning s = true) : s.eng.fault = 0#8 := by
  simp only [engineRunning, Bool.and_eq_true, decide_eq_true_eq] at h
  exact h.1

theorem microStep_of_indexInRange {s : State} (h : indexInRange s = true) : microStep s = .next (settle s (microRow s)) := by
  rw [microStep, if_pos h]

theorem step_ne_fault {s : State} (hi : Inv s) (f : Fault) : step s ≠ .fault f := by
  rcases step_cases s with ⟨a, -, h⟩ | ⟨c, -, -, h⟩ | ⟨-, -, h⟩ | ⟨-, -, hrun, h⟩ | ⟨-, -, -, h⟩
  · rw [h, attach]; split <;> simp
  · rw [h]; simp
  · rw [h]; simp
  · rw [h, microStep_of_indexInRange (hi.indexInRange (fault_eq_zero_of_engineRunning hrun))]; simp
  · rcases h with ⟨-, h⟩ | ⟨e, -, h⟩ | ⟨i, s1, -, h⟩ <;> rw [h]
    · simp
    · simp
    · exact exec_ne_fault i s1 f

/-- Settles O56: the positions keep every index in its buffer and every byte a row reads written. -/
theorem commandsReadNoUnwrittenByte : Obligations.CommandsReadNoUnwrittenByte := by
  refine fun s hi => ⟨step_ne_fault hi, fun hm hack => ?_⟩
  have hf := fault_eq_zero_of_engineRunning hm.2.2
  obtain ⟨t, ht⟩ := exists_microRow_ok hi hf hack
  refine ⟨t, ?_, (microRow_surroundings s t ht).fault.trans hf⟩
  rw [stepServesRequestsBeforeTheProgram.2.2.2.1 s hm, microStep_of_indexInRange (hi.indexInRange hf), ht]
  rfl

end Sys2Proof.Machine
end

section
/-! PROOF. No step reads the record of past events and accesses (60_exceptions.md R185): every operation commutes with
putting an older record before the one a state holds. -/

namespace Sys2Proof.Machine

/-- `s` with an older record before its own. -/
def prepend (trace : List Event) (bus : List BusAccess) (s : State) : State :=
  withHistory (trace ++ s.env.trace) (bus ++ s.env.bus) s

/-- An outcome with its next state changed. -/
def mapNext (f : State → State) : Host.Outcome State Fault Refusal → Host.Outcome State Fault Refusal
  | .next t => .next (f t)
  | .fault r => .fault r
  | .refused r => .refused r

/-- Any record is an older record before an empty one. -/
theorem withHistory_eq_prepend (trace : List Event) (bus : List BusAccess) (s : State) :
    withHistory trace bus s = prepend trace bus (withHistory [] [] s) := by
  simp [prepend, withHistory]

variable (T : List Event) (B : List BusAccess)

/-! ## Primitives -/

theorem emit_prepend (e : Event) (s : State) : emit e (prepend T B s) = prepend T B (emit e s) := by
  simp [emit, prepend, withHistory]

theorem lineRead_prepend (r : LineReg) (s : State) : lineRead r (prepend T B s) = prepend T B (lineRead r s) := by
  simp [lineRead, lineByte, lineWord, accessOf, prepend, withHistory]

theorem lineWrite_prepend (r : LineReg) (v : Byte) (s : State) :
    lineWrite r v (prepend T B s) = prepend T B (lineWrite r v s) := by
  simp [lineWrite, accessOf, prepend, withHistory]

theorem returnCall_prepend (r : CallResult) (s : State) : returnCall r (prepend T B s) = prepend T B (returnCall r s) := by
  simp [returnCall, prepend, withHistory]

theorem raiseFault_prepend (k : FaultKind) (s : State) : raiseFault k (prepend T B s) = prepend T B (raiseFault k s) := by
  simp [raiseFault, prepend, withHistory]

/-! ## Procedures -/

theorem attemptEnd_prepend (o : AttemptOutcome) (s : State) : attemptEnd o (prepend T B s) = prepend T B (attemptEnd o s) := by
  have hctx : (prepend T B s).env.ctx = s.env.ctx := rfl
  have heng : (prepend T B s).eng = s.eng := rfl
  have hpar : (prepend T B s).par = s.par := rfl
  unfold attemptEnd
  rw [hctx, heng, hpar]
  by_cases hl : s.eng.attempt < s.par.retryLimit
  · cases s.env.ctx <;> cases o <;> simp only [if_pos hl] <;> rfl
  · cases s.env.ctx <;> cases o <;> simp only [if_neg hl] <;> rfl

theorem txDone_prepend (s : State) : txDone (prepend T B s) = prepend T B (txDone s) := by
  have hctx : (prepend T B s).env.ctx = s.env.ctx := rfl
  have heng : (prepend T B s).eng = s.eng := rfl
  unfold txDone
  rw [hctx, heng]
  cases s.env.ctx <;> cases s.eng.txb <;> rfl

theorem rxDone_prepend (s : State) : rxDone (prepend T B s) = (rxDone s).map (prepend T B) := by
  have hctx : (prepend T B s).env.ctx = s.env.ctx := rfl
  have heng : (prepend T B s).eng = s.eng := rfl
  cases hc : s.env.ctx.readsForAttempt with
  | true =>
    cases hx : s.eng.rxp with
    | drain =>
      rw [rxDone_of_drain hc hx, rxDone_of_drain (s := prepend T B s) hc hx, attemptEnd_prepend]
      rfl
    | resp =>
      cases hj : judge s.eng with
      | error k => rw [rxDone_of_judge_error hc hx hj, rxDone_of_judge_error (s := prepend T B s) hc hx hj]; rfl
      | ok o =>
        rw [rxDone_of_judge hc hx hj, rxDone_of_judge (s := prepend T B s) hc hx hj, attemptEnd_prepend]
        split <;> rfl
  | false =>
    unfold rxDone
    rw [hctx, heng]
    revert hc
    cases s.env.ctx <;> simp only [Ctx.readsForAttempt, Bool.true_eq_false, false_imp_iff, forall_const]
    case response => cases judge s.eng <;> rfl
    all_goals rfl

theorem startCommand_prepend (p : List Byte) (s : State) :
    startCommand p (prepend T B s) = (startCommand p s).map (prepend T B) := by
  rw [startCommand_eq, startCommand_eq]
  have hpar : (prepend T B s).par = s.par := rfl
  rw [hpar]
  split <;> rfl

theorem beginCommand_prepend (c : Command) (s : State) :
    beginCommand c (prepend T B s) = (beginCommand c s).map (prepend T B) :=
  startCommand_prepend T B _ { s with eng := { s.eng with cmdIdx := c } }

theorem commandDone_prepend (r : CmdResult) (s : State) :
    commandDone r (prepend T B s) = (commandDone r s).map (prepend T B) := by
  have hctx : (prepend T B s).env.ctx = s.env.ctx := rfl
  have heng : (prepend T B s).eng = s.eng := rfl
  unfold commandDone
  rw [hctx, heng]
  have hnext : ∀ c, beginCommand c { prepend T B s with eng := { s.eng with cmdResult := s.eng.cmdResult.set s.eng.cmdIdx r } }
      = (beginCommand c { s with eng := { s.eng with cmdResult := s.eng.cmdResult.set s.eng.cmdIdx r } }).map (prepend T B) :=
    fun c => beginCommand_prepend T B c { s with eng := { s.eng with cmdResult := s.eng.cmdResult.set s.eng.cmdIdx r } }
  cases s.eng.cmdIdx.next? with
  | none => cases s.env.ctx <;> rfl
  | some c =>
    cases s.env.ctx
    case sendCommand => rfl
    all_goals exact hnext c

/-! ## The rows of the step table -/

theorem afterConfiguration_prepend (s : State) :
    afterConfiguration (prepend T B s) = (afterConfiguration s).map (prepend T B) := by
  have hctx : (prepend T B s).env.ctx = s.env.ctx := rfl
  unfold afterConfiguration
  rw [hctx]
  cases s.env.ctx
  case configure => rfl
  case reconfigure => rfl
  all_goals exact beginCommand_prepend T B _ s

theorem cfgStep_prepend (s : State) : cfgStep (prepend T B s) = (cfgStep s).map (prepend T B) := by
  have hwritten (r : LineReg) (v : Byte) : cfgWritten r v (prepend T B s) = prepend T B (cfgWritten r v s) := by
    simp only [cfgWritten, lineWrite_prepend]; rfl
  by_cases hv : ∃ r v, (cfgSeq s.par (cfgOperands s).1 (cfgOperands s).2)[s.eng.cfgJ]? = some (r, some v)
  · obtain ⟨r, v, hrv⟩ := hv
    by_cases hl : s.eng.cfgJ + 1 = cfgLen s.par
    · cases hd : (cfgOperands s).1 with
      | none => rw [cfgStep_of_no_divisor hl hd, cfgStep_of_no_divisor (s := prepend T B s) hl hd]; rfl
      | some d =>
        rw [cfgStep_of_last hrv hl hd, cfgStep_of_last (s := prepend T B s) hrv hl hd, hwritten]
        exact afterConfiguration_prepend T B (cfgRecorded d (cfgOperands s).2 (cfgWritten r v s))
    · rw [cfgStep_of_more hrv hl, cfgStep_of_more (s := prepend T B s) hrv hl, hwritten]
      rfl
  · have hv' := fun r v h => hv ⟨r, v, h⟩
    rw [cfgStep_of_no_value hv', cfgStep_of_no_value (s := prepend T B s) hv']
    rfl

theorem txWriteStep_prepend (s : State) : txWriteStep (prepend T B s) = (txWriteStep s).map (prepend T B) := by
  have hsent (b : Byte) : byteSent b (prepend T B s) = prepend T B (byteSent b s) := by
    simp only [byteSent, lineWrite_prepend]; rfl
  by_cases hw : ∃ x, s.env.ctx = .writeByte x
  · obtain ⟨x, hx⟩ := hw
    rw [txWriteStep_of_writeByte hx, txWriteStep_of_writeByte (s := prepend T B s) hx, lineWrite_prepend, txDone_prepend]
    rfl
  · have hc : ∀ x, s.env.ctx ≠ .writeByte x := fun x hx => hw ⟨x, hx⟩
    cases hb : txByte s with
    | error k => rw [txWriteStep_of_error hb, txWriteStep_of_error (s := prepend T B s) hb]; rfl
    | ok b =>
      by_cases hl : s.eng.txi + 1 = txLen s
      · rw [txWriteStep_of_last hc hb hl, txWriteStep_of_last (s := prepend T B s) hc hb hl, hsent, txDone_prepend]
        rfl
      · rw [txWriteStep_of_more hc hb hl, txWriteStep_of_more (s := prepend T B s) hc hb hl, hsent]
        rfl

theorem rxPollStep_prepend (s : State) : rxPollStep (prepend T B s) = (rxPollStep s).map (prepend T B) := by
  cases hd : dataReady s.par (lineByte s) with
  | true =>
    rw [rxPollStep_of_ready hd, rxPollStep_of_ready (s := prepend T B s) hd, lineRead_prepend]
    rfl
  | false =>
    by_cases hk : s.eng.k = s.par.readPollLimit
    · rw [rxPollStep_of_timeout hd hk, rxPollStep_of_timeout (s := prepend T B s) hd hk, lineRead_prepend, rxDone_prepend]
    · rw [rxPollStep_of_waiting hd hk, rxPollStep_of_waiting (s := prepend T B s) hd hk, lineRead_prepend]
      rfl

theorem rxDataStep_prepend (s : State) : rxDataStep (prepend T B s) = (rxDataStep s).map (prepend T B) := by
  have hstored : byteStored (prepend T B s) = prepend T B (byteStored s) := by
    simp only [byteStored, lineRead_prepend]; rfl
  by_cases hc : s.env.ctx = .readByte
  · rw [rxDataStep_of_readByte hc, rxDataStep_of_readByte (s := prepend T B s) hc, lineRead_prepend]
    rfl
  · by_cases hl : s.eng.rcount + 1 = rxMax s
    · rw [rxDataStep_of_last hc hl, rxDataStep_of_last (s := prepend T B s) hc hl, hstored, rxDone_prepend]
    · rw [rxDataStep_of_more hc hl, rxDataStep_of_more (s := prepend T B s) hc hl, hstored]
      rfl

theorem diagNakStep_prepend (s : State) : diagNakStep (prepend T B s) = (diagNakStep s).map (prepend T B) := by
  have hdiag : diag .nak [] (prepend T B s) = prepend T B (diag .nak [] s) := emit_prepend T B _ s
  by_cases hc : s.env.ctx = .attempt
  · rw [diagNakStep_of_attempt hc, diagNakStep_of_attempt (s := prepend T B s) hc, hdiag]
    simp only [attemptEnd_prepend]
    have heng : (prepend T B s).eng = s.eng := rfl
    rw [heng]
    cases checksumGood s.eng.rbuf <;> rfl
  · rw [diagNakStep_of_command hc, diagNakStep_of_command (s := prepend T B s) hc, hdiag, attemptEnd_prepend]
    rfl

theorem diagCsumStep_prepend (s : State) : diagCsumStep (prepend T B s) = (diagCsumStep s).map (prepend T B) := by
  have heng : (prepend T B s).eng = s.eng := rfl
  unfold diagCsumStep
  rw [heng]
  cases readFirst 4 s.eng.rbuf with
  | error k => rfl
  | ok bs =>
    have hdiag : diag .csumErr bs (prepend T B s) = prepend T B (diag .csumErr bs s) := emit_prepend T B _ s
    simp only [hdiag]
    rfl

theorem txPollStep_prepend (s : State) : txPollStep (prepend T B s) = prepend T B (txPollStep s) := by
  cases hb : holdingEmpty s.par (lineByte s) with
  | true =>
    rw [txPollStep_of_ready hb, txPollStep_of_ready (s := prepend T B s) hb, lineRead_prepend]
    rfl
  | false => rw [txPollStep_of_busy hb, txPollStep_of_busy (s := prepend T B s) hb, lineRead_prepend]

theorem microRow_prepend (s : State) : microRow (prepend T B s) = (microRow s).map (prepend T B) := by
  have hst : (prepend T B s).eng.st = s.eng.st := rfl
  have hsleep (d : Nat) : sleep d (prepend T B s) = prepend T B (sleep d s) := emit_prepend T B _ s
  have hdiag (c : DiagCode) (data : List Byte) : diag c data (prepend T B s) = prepend T B (diag c data s) :=
    emit_prepend T B _ s
  have heng : (prepend T B s).eng = s.eng := rfl
  have hpar : (prepend T B s).par = s.par := rfl
  unfold microRow
  rw [hst]
  cases s.eng.st <;> simp only
  case idle => rfl
  case cfg => exact cfgStep_prepend T B s
  case txPoll => exact congrArg Except.ok (txPollStep_prepend T B s)
  case txWrite => exact txWriteStep_prepend T B s
  case rxPoll => exact rxPollStep_prepend T B s
  case rxSleep => simp only [rxSleepStep, hpar, heng, hsleep]; rfl
  case rxData => exact rxDataStep_prepend T B s
  case diagShort => simp only [diagShortStep, heng, hdiag]; rfl
  case settleFlush => simp only [settleFlushStep, hpar, hsleep]; rfl
  case diagCsum => exact diagCsumStep_prepend T B s
  case diagNak => exact diagNakStep_prepend T B s
  case postOk => simp only [postOkStep, hpar, hsleep, commandDone_prepend]
  case diagExh => simp only [diagExhStep, heng, hdiag]; rfl
  case exhSleep => simp only [exhSleepStep, hpar, hsleep, commandDone_prepend]
  case returning => simp only [returnStep, returnCall_prepend]; rfl
  case done => rfl

theorem microStep_prepend (s : State) : microStep (prepend T B s) = mapNext (prepend T B) (microStep s) := by
  have hrange : indexInRange (prepend T B s) = indexInRange s := rfl
  unfold microStep
  rw [hrange, microRow_prepend]
  split
  · cases microRow s with
    | ok t => rfl
    | error k => exact congrArg Host.Outcome.next (raiseFault_prepend T B k s)
  · rfl

/-! ## The invocations -/

theorem invoke_prepend {refusal : Option Refusal} {run : State → Except FaultKind State} (s : State)
    (hrun : ∀ s0, run (prepend T B s0) = (run s0).map (prepend T B)) :
    invoke refusal run (prepend T B s) = mapNext (prepend T B) (invoke refusal run s) := by
  have heng : (prepend T B s).eng = s.eng := rfl
  unfold invoke
  rw [heng]
  by_cases hst : s.eng.st ≠ .idle
  · rw [if_pos hst, if_pos hst]; rfl
  · rw [if_neg hst, if_neg hst]
    cases refusal with
    | some r => rfl
    | none =>
      by_cases hf : s.eng.fault ≠ 0#8
      · simp only [if_pos hf]; rfl
      · simp only [if_neg hf]
        have h0 := hrun { s with env := { s.env with ret := .noValue } }
        change Host.Outcome.next (settle (prepend T B { s with env := { s.env with ret := .noValue } })
          (run (prepend T B { s with env := { s.env with ret := .noValue } }))) = _
        rw [h0]
        cases run { s with env := { s.env with ret := .noValue } } with
        | ok t => rfl
        | error k => exact congrArg Host.Outcome.next (raiseFault_prepend T B k _)

theorem triggerCall_prepend (r : Reason) (arg : Word) (s : State) :
    triggerCall r arg (prepend T B s) = prepend T B (triggerCall r arg s) := by
  have heng : (prepend T B s).eng = s.eng := rfl
  unfold triggerCall
  rw [heng, emit_prepend]
  dsimp only
  split
  · rfl
  · split
    · exact returnCall_prepend T B _ _
    · split
      · exact raiseFault_prepend T B _ { emit (.trig r arg) s with env := { (emit (.trig r arg) s).env with ret := .noValue } }
      · rfl

theorem callWithFreeArgument_prepend (r : Reason) (s : State) :
    callWithFreeArgument r (prepend T B s) = prepend T B (callWithFreeArgument r s) :=
  triggerCall_prepend T B r _ { s with env := { s.env with hostCalls := s.env.hostCalls + 1 } }

theorem map_prepend_comm {f : State → State} {x : Except FaultKind State} (hf : ∀ s, f (prepend T B s) = prepend T B (f s)) :
    (x.map (prepend T B)).map f = (x.map f).map (prepend T B) := by
  cases x with
  | ok s => exact congrArg Except.ok (hf s)
  | error k => rfl

theorem buildFrame_prepend (p : List Byte) (s : State) : buildFrame p (prepend T B s) = (buildFrame p s).map (prepend T B) := by
  have hpar : (prepend T B s).par = s.par := rfl
  unfold buildFrame
  rw [hpar]
  split <;> rfl

theorem expectedAck_prepend (p : List Byte) (s : State) :
    expectedAck p (prepend T B s) = (expectedAck p s).map (prepend T B) := by
  have hpar : (prepend T B s).par = s.par := rfl
  unfold expectedAck
  rw [hpar]
  split <;> rfl

theorem sendFrame_prepend (p : List Byte) (s : State) : sendFrame p (prepend T B s) = (sendFrame p s).map (prepend T B) := by
  unfold sendFrame
  rw [buildFrame_prepend, map_prepend_comm]
  exact fun _ => rfl

theorem exec_prepend (i : Instr) (s : State) : exec i (prepend T B s) = mapNext (prepend T B) (exec i s) := by
  cases i <;> simp only [exec]
  case trigger r arg => exact congrArg Host.Outcome.next (triggerCall_prepend T B r arg s)
  case reasonShutdown => exact congrArg Host.Outcome.next (callWithFreeArgument_prepend T B _ s)
  case reasonHalt => exact congrArg Host.Outcome.next (callWithFreeArgument_prepend T B _ s)
  case readBytes m => exact invoke_prepend T B s fun s0 => by split <;> rfl
  case writeBytes bs => exact invoke_prepend T B s fun s0 => by split <;> rfl
  case buildFrame p => exact invoke_prepend T B s fun s0 => by rw [buildFrame_prepend, map_prepend_comm]; exact fun _ => rfl
  case expectedAck p => exact invoke_prepend T B s fun s0 => by rw [expectedAck_prepend, map_prepend_comm]; exact fun _ => rfl
  case verifyChecksum =>
    refine invoke_prepend T B s fun s0 => ?_
    change (checksumGood s0.eng.rbuf).map _ = _
    cases checksumGood s0.eng.rbuf <;> rfl
  case compareAck =>
    refine invoke_prepend T B s fun s0 => ?_
    change (ackMatches s0.eng.rbuf s0.eng.ack).map _ = _
    cases ackMatches s0.eng.rbuf s0.eng.ack <;> rfl
  case attempt =>
    refine invoke_prepend T B s fun s0 => ?_
    have htx : txDone (enter .attempt (beginAttempt (prepend T B s0))) = prepend T B (txDone (enter .attempt (beginAttempt s0))) :=
      txDone_prepend T B (enter .attempt (beginAttempt s0))
    have hlen : (prepend T B s0).eng.frameLen = s0.eng.frameLen := rfl
    rw [hlen]
    split
    · exact congrArg Except.ok htx
    · rfl
  case sendCommand p => exact invoke_prepend T B s fun s0 => startCommand_prepend T B p (enter .sendCommand s0)
  case runSequence => exact invoke_prepend T B s fun s0 => beginCommand_prepend T B _ (enter .runSequence s0)
  case frameWatchdogKill => exact invoke_prepend T B s fun s0 => sendFrame_prepend T B _ s0
  case frameShutdownWait => exact invoke_prepend T B s fun s0 => sendFrame_prepend T B _ s0
  case framePowerOff => exact invoke_prepend T B s fun s0 => sendFrame_prepend T B _ s0
  case commandFrame p => exact invoke_prepend T B s fun s0 => sendFrame_prepend T B p s0
  all_goals exact invoke_prepend T B s fun _ => rfl

/-! ## The step -/

theorem fetch_prepend (s : State) : fetch (prepend T B s) = (fetch s).map (Except.map (Prod.map id (prepend T B))) := by
  have hprog : (prepend T B s).env.program = s.env.program := rfl
  have hpar : (prepend T B s).par = s.par := rfl
  unfold fetch
  rw [hprog]
  cases s.env.program with
  | nil => rfl
  | cons item rest =>
    dsimp only
    rw [hpar]
    rcases decodeItem s.par item with e | ⟨i, left⟩ <;> rfl

theorem step_prepend (s : State) : step (prepend T B s) = mapNext (prepend T B) (step s) := by
  have hreq : (prepend T B s).env.attachReq = s.env.attachReq := rfl
  have hport : (prepend T B s).env.port = s.env.port := rfl
  have hctx : (prepend T B s).env.ctx = s.env.ctx := rfl
  have hrun : engineRunning (prepend T B s) = engineRunning s := rfl
  unfold step
  rw [hreq, hport, hctx, hrun, fetch_prepend]
  cases s.env.attachReq with
  | some a => simp only [attach]; split <;> rfl
  | none => cases s.env.port with
    | some c => exact exec_prepend T B _ { s with env := { s.env with port := none } }
    | none =>
      dsimp only
      split
      · rfl
      · split
        · exact microStep_prepend T B s
        · rcases fetch s with _ | e | ⟨i, s1⟩
          · rfl
          · rfl
          · exact exec_prepend T B i s1

/-- Settles O53: a step commutes with an older record before the one of the state, so its additions are those it makes to an
empty record. -/
theorem stepsNeverReadThePast : Obligations.StepsNeverReadThePast := by
  intro s t h
  rw [show s = prepend s.env.trace s.env.bus (withHistory [] [] s) from withHistory_eq_prepend _ _ s, step_prepend] at h
  cases hs : step (withHistory [] [] s) with
  | next u =>
    rw [hs] at h
    cases h
    refine ⟨u.env.trace, u.env.bus, fun trace bus => ?_⟩
    rw [withHistory_eq_prepend trace bus s, step_prepend, hs]
    rfl
  | fault r => rw [hs] at h; cases h
  | refused r => rw [hs] at h; cases h

end Sys2Proof.Machine
end

section
/-! PROOF. What a row of the step table records: one event, with the bus access it stands for, and nothing else of the
surroundings but `ctx` and `ret`. -/

namespace Sys2Proof.Machine

/-- `t` is `s` after the events `ev`: the record grows by them and their bus accesses, the line has answered the reads
among them, and nothing else around the engine changed but `ctx` and `ret`. -/
structure Ran (s : State) (ev : List Event) (t : State) : Prop where
  par : t.par = s.par
  base : t.eng.base = s.eng.base
  env : ∃ added : List BusAccess, added.map BusAccess.seen = eventAccesses s ev ∧
    t.env = { s.env with
      trace := s.env.trace ++ ev
      bus := s.env.bus ++ added
      line := s.env.line.drop (ev.countP Event.isRead)
      lineReads := s.env.lineReads + ev.countP Event.isRead
      ctx := t.env.ctx
      ret := t.env.ret }

theorem eventAccesses_append (s : State) (ev ev' : List Event) :
    eventAccesses s (ev ++ ev') = eventAccesses s ev ++ eventAccesses s ev' := by
  induction ev with
  | nil => rfl
  | cons e ev ih => cases e <;> simp [eventAccesses, ih]

theorem eventAccesses_congr {s t : State} (hp : t.par = s.par) (hb : t.eng.base = s.eng.base) (ev : List Event) :
    eventAccesses t ev = eventAccesses s ev := by
  induction ev with
  | nil => rfl
  | cons e ev ih => cases e <;> simp [eventAccesses, ih, hp, hb]

theorem Ran.trans {s t u : State} {ev ev' : List Event} (h : Ran s ev t) (g : Ran t ev' u) : Ran s (ev ++ ev') u := by
  obtain ⟨hp, hb, a, ha, he⟩ := h
  obtain ⟨gp, gb, b, hb', ge⟩ := g
  refine ⟨gp.trans hp, gb.trans hb, a ++ b, ?_, ?_⟩
  · rw [List.map_append, ha, hb', eventAccesses_append, eventAccesses_congr hp hb]
  · rw [ge, he]
    simp [Nat.add_assoc]

/-- An operation that changes only registers, `ctx` and `ret`. -/
theorem Ran.of_quiet {s t : State} (hp : t.par = s.par) (hb : t.eng.base = s.eng.base)
    (he : t.env = { s.env with ctx := t.env.ctx, ret := t.env.ret }) : Ran s [] t :=
  ⟨hp, hb, [], rfl, by rw [he]; simp⟩

/-- An operation that changes only registers, `ctx` and `ret` after the events. -/
theorem Ran.then_quiet {s t u : State} {ev : List Event} (h : Ran s ev t) (g : Ran t [] u) : Ran s ev u := by
  simpa using h.trans g

theorem Ran.trace {s t : State} {ev : List Event} (h : Ran s ev t) : t.env.trace = s.env.trace ++ ev := by
  obtain ⟨-, -, a, -, he⟩ := h
  rw [he]

theorem Ran.line {s t : State} {ev : List Event} (h : Ran s ev t) :
    t.env.line = s.env.line.drop (ev.countP Event.isRead) := by
  obtain ⟨-, -, a, -, he⟩ := h
  rw [he]

theorem Ran.noRequest {s t : State} {ev : List Event} (h : Ran s ev t) (hs : noRequest s) : noRequest t := by
  obtain ⟨-, -, a, -, he⟩ := h
  unfold Machine.noRequest
  rw [he]
  exact hs

/-! ## Primitives -/

theorem emit_ran (e : Event) (s : State) (ha : eventAccesses s [e] = []) (hr : e.isRead = false) : Ran s [e] (emit e s) :=
  ⟨rfl, rfl, [], by simp [ha], by simp [hr]⟩

theorem sleep_ran (d : Nat) (s : State) : Ran s [.sleep d] (sleep d s) := emit_ran _ s rfl rfl

theorem diag_ran (c : DiagCode) (data : List Byte) (s : State) : Ran s [.diag c data] (diag c data s) :=
  emit_ran _ s rfl rfl

theorem returnCall_ran (r : CallResult) (s : State) : Ran s [.ret r] (returnCall r s) :=
  ⟨rfl, rfl, [], rfl, by simp [Event.isRead]⟩

theorem lineRead_ran (r : LineReg) (s : State) : Ran s [.rd r (lineByte s)] (lineRead r s) :=
  ⟨rfl, rfl, [accessOf s false r (lineWord s)], rfl, by simp [Event.isRead]⟩

theorem lineWrite_ran (r : LineReg) (v : Byte) (s : State) : Ran s [.wr r v] (lineWrite r v s) :=
  ⟨rfl, rfl, [accessOf s true r (busWord v)], by simp [eventAccesses, BusAccess.seen, accessOf], by simp [Event.isRead]⟩

/-! ## Procedures -/

theorem goto_ran (st : MicroState) (s : State) : Ran s [] (goto st s) := .of_quiet rfl rfl rfl

theorem finish_ran (v : RetVal) (s : State) : Ran s [] (finish v s) := .of_quiet rfl rfl rfl

theorem beginRx_ran (p : RxPurpose) (s : State) : Ran s [] (beginRx p s) := .of_quiet rfl rfl rfl

theorem beginCommand_ran (c : Command) (s t : State) (h : beginCommand c s = .ok t) : Ran s [] t := by
  rw [beginCommand_eq] at h
  split at h <;> cases h
  exact .of_quiet rfl rfl rfl

theorem commandDone_ran (r : CmdResult) (s t : State) (h : commandDone r s = .ok t) : Ran s [] t := by
  rcases commandDone_ok r s t h with ⟨-, rfl⟩ | ⟨-, c, -, hb⟩ | ⟨-, -, rfl⟩ | ⟨-, -, -, rfl⟩
  · exact finish_ran _ s
  · obtain ⟨hp, hbase, a, ha, he⟩ := beginCommand_ran c _ t hb
    exact ⟨hp, hbase, a, ha, he⟩
  · exact .of_quiet rfl rfl rfl
  · exact .of_quiet rfl rfl rfl

theorem attemptEnd_ran (o : AttemptOutcome) (s : State) : Ran s [] (attemptEnd o s) := by
  rcases attemptEnd_cases o s with ⟨-, h⟩ | ⟨-, -, h⟩ | ⟨-, -, -, h⟩ | ⟨-, -, -, h⟩ <;> rw [h] <;> exact .of_quiet rfl rfl rfl

theorem txDone_ran (s : State) : Ran s [] (txDone s) := by
  rcases txDone_cases s with ⟨h, -⟩ | ⟨-, ⟨-, h⟩ | ⟨-, h⟩⟩ <;> rw [h] <;> exact .of_quiet rfl rfl rfl

theorem rxDone_ran (s t : State) (h : rxDone s = .ok t) : Ran s [] t := by
  rcases rxDone_ok s t h with ⟨-, rfl⟩ | ⟨-, rfl⟩ | ⟨-, rfl⟩ | ⟨-, o, -, rfl⟩ | ⟨-, -, rfl⟩ | ⟨-, -, hj⟩
  · exact finish_ran _ s
  · exact finish_ran _ s
  · exact finish_ran _ s
  · exact finish_ran _ s
  · exact attemptEnd_ran _ s
  · rcases hj with ⟨-, rfl⟩ | ⟨-, rfl⟩ | ⟨-, rfl⟩ | ⟨-, rfl⟩
    · exact goto_ran _ s
    · exact goto_ran _ s
    · exact goto_ran _ s
    · exact attemptEnd_ran _ s

/-! ## The rows of the step table -/

/-- The primitive of the micro-state, with its operands (43_shutdown_sequencer.md R170). -/
def RowEvent (s : State) (e : Event) : Prop :=
  match s.eng.st with
  | .idle => False
  | .cfg => ∃ r v, (cfgSeq s.par (cfgOperands s).1 (cfgOperands s).2)[s.eng.cfgJ]? = some (r, some v) ∧ e = .wr r v
  | .txPoll => e = .rd .lsr (lineByte s)
  | .txWrite => ∃ b, txByte s = .ok b ∧ e = .wr .data b
  | .rxPoll => e = .rd .lsr (lineByte s)
  | .rxSleep => e = .sleep s.par.pollInterval
  | .rxData => e = .rd .data (lineByte s)
  | .diagShort => e = .diag .rxShort [BitVec.ofNat 8 s.eng.rcount]
  | .settleFlush => e = .sleep s.par.flushSettle
  | .diagCsum => ∃ bs, s.eng.rbuf.take 4 = bs.map some ∧ bs.length = 4 ∧ e = .diag .csumErr bs
  | .diagNak => e = .diag .nak []
  | .postOk => e = .sleep s.par.postCmdDelay
  | .diagExh => e = .diag .exhausted [BitVec.ofNat 8 s.eng.cmdIdx.index]
  | .exhSleep => e = .sleep s.par.postCmdDelay
  | .returning => e = .ret .handled
  | .done => False

theorem cfgStep_ran (s t : State) (h : cfgStep s = .ok t) :
    ∃ r v, (cfgSeq s.par (cfgOperands s).1 (cfgOperands s).2)[s.eng.cfgJ]? = some (r, some v) ∧ Ran s [.wr r v] t := by
  obtain ⟨r, v, hrv, ht⟩ := cfgStep_ok s t h
  have hw : Ran s [.wr r v] (cfgWritten r v s) := (lineWrite_ran r v s).then_quiet (.of_quiet rfl rfl rfl)
  refine ⟨r, v, hrv, ?_⟩
  rcases ht with ⟨-, rfl⟩ | ⟨-, d, -, ⟨-, rfl⟩ | ⟨-, hb⟩⟩
  · exact hw
  · exact hw.then_quiet (.of_quiet rfl rfl rfl)
  · have hrec : Ran (cfgWritten r v s) [] (cfgRecorded d (cfgOperands s).2 (cfgWritten r v s)) := .of_quiet rfl rfl rfl
    exact (hw.then_quiet hrec).then_quiet (beginCommand_ran _ _ _ hb)

theorem txPollStep_ran (s : State) : Ran s [.rd .lsr (lineByte s)] (txPollStep s) := by
  unfold txPollStep
  split
  · exact (lineRead_ran _ s).then_quiet (goto_ran _ _)
  · exact lineRead_ran _ s

theorem txWriteStep_ran (s t : State) (h : txWriteStep s = .ok t) : ∃ b, txByte s = .ok b ∧ Ran s [.wr .data b] t := by
  obtain ⟨b, hb, ht⟩ := txWriteStep_ok s t h
  have hw := lineWrite_ran .data b s
  refine ⟨b, hb, ?_⟩
  rcases ht with ⟨-, rfl⟩ | ⟨-, u, hu, ht⟩
  · exact hw.then_quiet (txDone_ran _)
  · have hsent : Ran s [.wr .data b] u := hw.then_quiet (by rw [hu]; exact .of_quiet rfl rfl rfl)
    rcases ht with ⟨-, rfl⟩ | ⟨-, rfl⟩
    · exact hsent.then_quiet (txDone_ran u)
    · exact hsent.then_quiet (goto_ran _ u)

theorem rxPollStep_ran (s t : State) (h : rxPollStep s = .ok t) : Ran s [.rd .lsr (lineByte s)] t := by
  rcases rxPollStep_ok s t h with ⟨-, rfl⟩ | ⟨-, -, hd⟩ | ⟨-, -, rfl⟩
  · exact (lineRead_ran _ s).then_quiet (goto_ran _ _)
  · exact (lineRead_ran _ s).then_quiet (rxDone_ran _ _ hd)
  · exact (lineRead_ran _ s).then_quiet (goto_ran _ _)

theorem byteStored_ran (s : State) : Ran s [.rd .data (lineByte s)] (byteStored s) :=
  (lineRead_ran .data s).then_quiet (.of_quiet rfl rfl rfl)

theorem rxDataStep_ran (s t : State) (h : rxDataStep s = .ok t) : Ran s [.rd .data (lineByte s)] t := by
  rcases rxDataStep_ok s t h with ⟨-, rfl⟩ | ⟨-, -, hd⟩ | ⟨-, -, rfl⟩
  · exact (lineRead_ran _ s).then_quiet (finish_ran _ _)
  · exact (byteStored_ran s).then_quiet (rxDone_ran _ _ hd)
  · exact (byteStored_ran s).then_quiet (.of_quiet rfl rfl rfl)

theorem diagCsumStep_ran (s t : State) (h : diagCsumStep s = .ok t) :
    ∃ bs, s.eng.rbuf.take 4 = bs.map some ∧ bs.length = 4 ∧ Ran s [.diag .csumErr bs] t := by
  unfold diagCsumStep at h
  cases hr : readFirst 4 s.eng.rbuf with
  | error k => rw [hr] at h; cases h
  | ok bs =>
    rw [hr] at h
    cases h
    obtain ⟨hl, ht⟩ := (readFirst_eq_ok_iff _ _ _).mp hr
    exact ⟨bs, ht, hl, (diag_ran _ bs s).then_quiet (goto_ran _ _)⟩

/-- A row records the event of its micro-state, and its bus access. -/
theorem microRow_ran (s t : State) (h : microRow s = .ok t) (ha : s.eng.st.active = true) :
    ∃ e, RowEvent s e ∧ Ran s [e] t := by
  unfold microRow at h
  unfold RowEvent
  cases hst : s.eng.st <;> simp only [hst] at h ⊢
  case idle => rw [hst] at ha; cases ha
  case done => rw [hst] at ha; cases ha
  case cfg =>
    obtain ⟨r, v, hrv, hran⟩ := cfgStep_ran s t h
    exact ⟨_, ⟨r, v, hrv, rfl⟩, hran⟩
  case txPoll => cases h; exact ⟨_, rfl, txPollStep_ran s⟩
  case txWrite =>
    obtain ⟨b, hb, hran⟩ := txWriteStep_ran s t h
    exact ⟨_, ⟨b, hb, rfl⟩, hran⟩
  case rxPoll => exact ⟨_, rfl, rxPollStep_ran s t h⟩
  case rxSleep => cases h; exact ⟨_, rfl, (sleep_ran _ s).then_quiet (.of_quiet rfl rfl rfl)⟩
  case rxData => exact ⟨_, rfl, rxDataStep_ran s t h⟩
  case diagShort => cases h; exact ⟨_, rfl, (diag_ran _ _ s).then_quiet (.of_quiet rfl rfl rfl)⟩
  case settleFlush => cases h; exact ⟨_, rfl, (sleep_ran _ s).then_quiet (beginRx_ran _ _)⟩
  case diagCsum =>
    obtain ⟨bs, hbs, hl, hran⟩ := diagCsumStep_ran s t h
    exact ⟨_, ⟨bs, hbs, hl, rfl⟩, hran⟩
  case diagNak =>
    obtain ⟨o, -, -, rfl⟩ := diagNakStep_ok s t h
    exact ⟨_, rfl, (diag_ran _ _ s).then_quiet (attemptEnd_ran _ _)⟩
  case postOk => exact ⟨_, rfl, (sleep_ran _ s).then_quiet (commandDone_ran _ _ _ h)⟩
  case diagExh => cases h; exact ⟨_, rfl, (diag_ran _ _ s).then_quiet (goto_ran _ _)⟩
  case exhSleep => exact ⟨_, rfl, (sleep_ran _ s).then_quiet (commandDone_ran _ _ _ h)⟩
  case returning => cases h; exact ⟨_, rfl, (returnCall_ran _ s).then_quiet (goto_ran _ _)⟩

/-- What an engine step is: a row without a fault, or the fault raised in its place. -/
theorem engine_step_cases {s t : State} (hm : engineMoves s) (h : step s = .next t) :
    s.eng.fault = 0#8 ∧ s.eng.st.active = true ∧ (microRow s = .ok t ∨ ∃ k, microRow s = .error k ∧ t = raiseFault k s) := by
  rw [stepServesRequestsBeforeTheProgram.2.2.2.1 s hm] at h
  obtain ⟨hf, ha⟩ := Bool.and_eq_true_iff.mp hm.2.2
  exact ⟨of_decide_eq_true hf, ha, (microStep_next s t h).2⟩

/-- Settles O9: a row records the event of its micro-state, and a fault its own event in place of it. -/
theorem eachMicroStatePerformsItsOwnPrimitive : Obligations.EachMicroStatePerformsItsOwnPrimitive := by
  refine ⟨fun s t hm h => ?_, by decide⟩
  obtain ⟨hf, ha, hrow | ⟨k, -, rfl⟩⟩ := engine_step_cases hm h
  · obtain ⟨e, he, hran⟩ := microRow_ran s t hrow ha
    exact ⟨e, hran.trace, .inr ⟨(microRow_surroundings s t hrow).fault.trans hf, he⟩⟩
  · exact ⟨.fault k, rfl, .inl ⟨k.code_ne_zero, k, rfl⟩⟩

end Sys2Proof.Machine
end

section
/-! PROOF. Runs of the engine: what one row reaches, how runs follow one another, and what a finished run leaves. -/

namespace Sys2Proof.Machine

/-- Inside an operation: `t` is `s` after the events `ev`, in the same invocation and without a new fault. -/
structure During (s : State) (ev : List Event) (t : State) : Prop where
  ran : Ran s ev t
  ctx : t.env.ctx = s.env.ctx
  ret : t.env.ret = s.env.ret
  fault : t.eng.fault = s.eng.fault

theorem During.trans {s t u : State} {ev ev' : List Event} (h : During s ev t) (g : During t ev' u) :
    During s (ev ++ ev') u :=
  ⟨h.ran.trans g.ran, g.ctx.trans h.ctx, g.ret.trans h.ret, g.fault.trans h.fault⟩

theorem During.then_quiet {s t u : State} {ev : List Event} (h : During s ev t) (g : During t [] u) : During s ev u := by
  simpa using h.trans g

/-- Only registers change, and not those of the Line Handle or `fault`. -/
theorem During.of_registers {s t : State} (hp : t.par = s.par) (he : t.env = s.env) (hb : t.eng.base = s.eng.base)
    (hf : t.eng.fault = s.eng.fault) : During s [] t :=
  ⟨.of_quiet hp hb (by rw [he]), by rw [he], by rw [he], hf⟩

theorem lineRead_during (r : LineReg) (s : State) : During s [.rd r (lineByte s)] (lineRead r s) :=
  ⟨lineRead_ran r s, rfl, rfl, rfl⟩

theorem lineWrite_during (r : LineReg) (v : Byte) (s : State) : During s [.wr r v] (lineWrite r v s) :=
  ⟨lineWrite_ran r v s, rfl, rfl, rfl⟩

theorem sleep_during (d : Nat) (s : State) : During s [.sleep d] (sleep d s) := ⟨sleep_ran d s, rfl, rfl, rfl⟩

theorem diag_during (c : DiagCode) (data : List Byte) (s : State) : During s [.diag c data] (diag c data s) :=
  ⟨diag_ran c data s, rfl, rfl, rfl⟩

theorem goto_during (st : MicroState) (s : State) : During s [] (goto st s) := .of_registers rfl rfl rfl rfl

/-! ## The engine under way -/

/-- Nothing stands before the engine's own steps: no request, no call that never returns, no fault. -/
structure Live (s : State) : Prop where
  noRequest : noRequest s
  notStuck : s.env.ctx ≠ .stuck
  noFault : s.eng.fault = 0#8

theorem Live.during {s t : State} {ev : List Event} (h : Live s) (d : During s ev t) : Live t :=
  ⟨d.ran.noRequest h.noRequest, d.ctx ▸ h.notStuck, d.fault.trans h.noFault⟩

/-- One step of the machine is the row of the micro-state. -/
theorem Live.runsTo_row {s t : State} (h : Live s) (ha : s.eng.st.active = true) (hi : indexInRange s = true)
    (hrow : microRow s = .ok t) : runsTo s t := by
  have hrun : engineRunning s = true := Bool.and_eq_true_iff.mpr ⟨decide_eq_true h.noFault, ha⟩
  have hstep : step s = .next t := by
    rw [stepServesRequestsBeforeTheProgram.2.2.2.1 s ⟨h.noRequest, h.notStuck, hrun⟩, microStep_of_indexInRange hi, hrow]
    rfl
  exact ⟨1, by rw [run_of_next 0 s t hstep]; rfl⟩

theorem runsTo_refl (s : State) : runsTo s s := ⟨0, rfl⟩

/-- The run from `s` comes to `t`, inside the same operation, with the events `ev`. -/
structure Reaches (s : State) (ev : List Event) (t : State) : Prop where
  run : runsTo s t
  during : During s ev t

theorem Reaches.trans {s t u : State} {ev ev' : List Event} (h : Reaches s ev t) (g : Reaches t ev' u) :
    Reaches s (ev ++ ev') u :=
  ⟨runsTo_trans h.run g.run, h.during.trans g.during⟩

/-- The run from `s` comes, with the events `ev`, to a row whose primitive leaves `u` and that goes on with `f`: what `f`
makes of `u` is the row's next state. -/
structure LeadsTo (s : State) (ev : List Event) (f : State → Except FaultKind State) (u : State) : Prop where
  during : During s ev u
  run : ∀ t, f u = .ok t → runsTo s t

theorem LeadsTo.of_row {s u : State} {ev : List Event} {f : State → Except FaultKind State} (hl : Live s)
    (ha : s.eng.st.active = true) (hi : indexInRange s = true) (hrow : microRow s = f u) (hd : During s ev u) :
    LeadsTo s ev f u :=
  ⟨hd, fun _ ht => hl.runsTo_row ha hi (hrow.trans ht)⟩

theorem Reaches.of_row {s t : State} {ev : List Event} (hl : Live s) (ha : s.eng.st.active = true)
    (hi : indexInRange s = true) (hrow : microRow s = .ok t) (hd : During s ev t) : Reaches s ev t :=
  ⟨hl.runsTo_row ha hi hrow, hd⟩

/-- The micro-states whose row uses no index register. -/
def MicroState.indexFree : MicroState → Bool
  | .cfg => false
  | .txWrite => false
  | .rxData => false
  | _ => true

theorem indexInRange_of_indexFree {s : State} (h : s.eng.st.indexFree = true) : indexInRange s = true := by
  unfold indexInRange
  cases hst : s.eng.st
  case cfg => rw [hst] at h; cases h
  case txWrite => rw [hst] at h; cases h
  case rxData => rw [hst] at h; cases h
  all_goals rfl

/-- The same in a micro-state whose row uses no index register. -/
theorem LeadsTo.of_indexFree {s u : State} {st : MicroState} {ev : List Event} {f : State → Except FaultKind State}
    (hl : Live s) (hst : s.eng.st = st) (h : (st.active && st.indexFree) = true) (hrow : microRow s = f u)
    (hd : During s ev u) : LeadsTo s ev f u :=
  have h := Bool.and_eq_true_iff.mp h
  .of_row hl (hst ▸ h.1) (indexInRange_of_indexFree (hst ▸ h.2)) hrow hd

theorem Reaches.of_indexFree {s t : State} {st : MicroState} {ev : List Event} (hl : Live s) (hst : s.eng.st = st)
    (h : (st.active && st.indexFree) = true) (hrow : microRow s = .ok t) (hd : During s ev t) : Reaches s ev t :=
  have h := Bool.and_eq_true_iff.mp h
  .of_row hl (hst ▸ h.1) (indexInRange_of_indexFree (hst ▸ h.2)) hrow hd

theorem Reaches.leadsTo {s t u : State} {ev ev' : List Event} {f : State → Except FaultKind State} (h : Reaches s ev t)
    (g : LeadsTo t ev' f u) : LeadsTo s (ev ++ ev') f u :=
  ⟨h.during.trans g.during, fun v hv => runsTo_trans h.run (g.run v hv)⟩

theorem LeadsTo.reaches {s t u : State} {ev : List Event} {f : State → Except FaultKind State} (h : LeadsTo s ev f u)
    (hf : f u = .ok t) (hd : During u [] t) : Reaches s ev t :=
  ⟨h.run t hf, h.during.then_quiet hd⟩

theorem LeadsTo.congr {s u : State} {ev : List Event} {f g : State → Except FaultKind State} (h : LeadsTo s ev f u)
    (hfg : f u = g u) : LeadsTo s ev g u :=
  ⟨h.during, fun t ht => h.run t (hfg.trans ht)⟩

theorem LeadsTo.goes_on {s u v : State} {ev : List Event} {f g : State → Except FaultKind State} (h : LeadsTo s ev f u)
    (hfg : f u = g v) (hd : During u [] v) : LeadsTo s ev g v :=
  ⟨h.during.then_quiet hd, fun t ht => h.run t (hfg.trans ht)⟩

/-- What a run that ended leaves, from what was recorded and the registers it ended with. -/
theorem Ran.ranTo {s t : State} {ev : List Event} {e : Engine} {rest : List Word} {r : RetVal} (h : Ran s ev t)
    (he : t.eng = e) (hline : t.env.line = rest) (hctx : t.env.ctx = .engine) (hret : t.env.ret = r) :
    Machine.ranTo s e ev rest r t := by
  have hl := h.line
  obtain ⟨hp, -, added, ha, henv⟩ := h
  refine ⟨added, ha, ?_⟩
  calc t = ⟨t.par, t.eng, t.env⟩ := rfl
    _ = _ := by rw [hp, he, henv, hctx, hret, ← hl, hline]

/-- The run from `s` ends its operation in `t`, with the events `ev`, the registers `e`, the line answers `rest` still to
come and the return value `r`. -/
structure Ends (s : State) (ev : List Event) (e : Engine) (rest : List Word) (r : RetVal) (t : State) : Prop where
  run : runsTo s t
  ran : Ran s ev t
  eng : t.eng = e
  line : t.env.line = rest
  ctx : t.env.ctx = .engine
  ret : t.env.ret = r

theorem LeadsTo.ends {s u : State} {ev : List Event} {f : State → Except FaultKind State} {v : RetVal}
    (h : LeadsTo s ev f u) (hf : f u = .ok (finish v u)) :
    Ends s ev { u.eng with st := .idle } u.env.line v (finish v u) :=
  ⟨h.run _ hf, h.during.ran.then_quiet (finish_ran v u), rfl, rfl, rfl, rfl⟩

/-- An operation that an instruction starts and a run ends. -/
theorem Ends.completes {i : Instr} {s s1 t : State} {ev0 ev : List Event} {e : Engine} {rest : List Word} {r : RetVal}
    (h : Ends s1 ev e rest r t) (hexec : exec i s = .next s1) (h0 : Ran s ev0 s1) :
    completesTo i s t ∧ ranTo s e (ev0 ++ ev) rest r t :=
  ⟨⟨s1, hexec, h.run⟩, (h0.trans h.ran).ranTo h.eng h.line h.ctx h.ret⟩

end Sys2Proof.Machine
end

section
/-! PROOF. The Byte Transport's runs: polling for THRE, polling for a byte, reading a buffer (41_byte_transport.md R101 to
R104). -/

namespace Sys2Proof.Machine

theorem lineByte_of_line {s : State} {w : Word} {ws : List Word} (h : s.env.line = w :: ws) : lineByte s = busByte w := by
  rw [lineByte, lineWord, h]

theorem lineRead_line {s : State} {w : Word} {ws : List Word} (r : LineReg) (h : s.env.line = w :: ws) :
    (lineRead r s).env.line = ws := by
  rw [lineRead_env, h]; rfl

/-! ## Polling for THRE -/

theorem reaches_txWrite {s : State} (hl : Live s) (hst : s.eng.st = .txPoll)
    (hb : holdingEmpty s.par (lineByte s) = true) :
    Reaches s [.rd .lsr (lineByte s)] (goto .txWrite (lineRead .lsr s)) :=
  .of_indexFree hl hst rfl
    (by rw [microRow, hst, ← txPollStep_of_ready hb]) ((lineRead_during _ s).then_quiet (goto_during _ _))

theorem reaches_nextPoll {s : State} (hl : Live s) (hst : s.eng.st = .txPoll)
    (hb : holdingEmpty s.par (lineByte s) = false) : Reaches s [.rd .lsr (lineByte s)] (lineRead .lsr s) :=
  .of_indexFree hl hst rfl
    (by rw [microRow, hst, ← txPollStep_of_busy hb]) (lineRead_during _ s)

/-- The polls of one byte written: the run comes to `TX_WRITE` with the events before the write (41_byte_transport.md R102). -/
theorem reaches_of_bigWriteByte {p : Params} {b : Byte} {ws rest : List Word} {ev : List Event}
    (h : bigWriteByte p b ws = some (ev, rest)) {s : State} (hl : Live s) (hp : s.par = p) (hst : s.eng.st = .txPoll)
    (hline : s.env.line = ws) :
    ∃ polls t, ev = polls ++ [.wr .data b] ∧ Reaches s polls t ∧ t.eng = { s.eng with st := .txWrite } ∧
      t.env.line = rest := by
  induction ws generalizing s ev with
  | nil => cases h
  | cons w ws ih =>
    have hbyte := lineByte_of_line hline
    unfold bigWriteByte at h
    split at h
    · rename_i hready
      cases h
      have hstep := reaches_txWrite hl hst (by rw [hbyte, hp]; exact hready)
      exact ⟨[.rd .lsr (busByte w)], goto .txWrite (lineRead .lsr s), rfl, hbyte ▸ hstep, rfl, lineRead_line .lsr hline⟩
    · rename_i hbusy
      split at h
      · rename_i ev' rest' hrec
        cases h
        have hstep := reaches_nextPoll hl hst (by rw [hbyte, hp]; simpa using hbusy)
        obtain ⟨polls, t, rfl, hrun, ht, hrest⟩ := ih hrec (hl.during hstep.during) hp hst (lineRead_line _ hline)
        exact ⟨.rd .lsr (busByte w) :: polls, t, rfl, hbyte ▸ hstep.trans hrun, ht, hrest⟩
      · cases h

/-- A harness `WRITE_BYTE` that has started runs to its end. -/
theorem ends_of_bigWriteByte {s : State} {b : Byte} {ev : List Event} {rest : List Word} (hl : Live s)
    (hst : s.eng.st = .txPoll) (hc : s.env.ctx = .writeByte b) (h : bigWriteByte s.par b s.env.line = some (ev, rest)) :
    ∃ t, Ends s ev { s.eng with st := .idle } rest .noValue t := by
  obtain ⟨polls, t, rfl, hrun, ht, rfl⟩ := reaches_of_bigWriteByte h hl rfl hst rfl
  have hctx : t.env.ctx = .writeByte b := hrun.during.ctx.trans hc
  have hst' : t.eng.st = .txWrite := by rw [ht]
  have hwrite : LeadsTo t [.wr .data b] (fun u => .ok (txDone u)) (lineWrite .data b t) :=
    .of_row (hl.during hrun.during) (by rw [hst']; rfl) (by simp [indexInRange, hst', hctx])
      (by rw [microRow, hst']; exact txWriteStep_of_writeByte hctx) (lineWrite_during _ b t)
  have hdone : txDone (lineWrite .data b t) = finish .noValue (lineWrite .data b t) := by
    rw [txDone, show (lineWrite .data b t).env.ctx = .writeByte b from hctx]
  have hends := (hrun.leadsTo hwrite).ends (congrArg Except.ok hdone)
  rw [lineWrite_eng, ht] at hends
  exact ⟨_, hends⟩

/-- Settles O18: the polls, then the one write, which ends the operation. -/
theorem writeByteRunsItsPseudocode : Obligations.WriteByteRunsItsPseudocode := by
  intro s b hm
  have hexec : execWriteByte b s = .next { s with
      eng := { s.eng with st := .txPoll }, env := { s.env with ctx := .writeByte b, ret := .noValue } } :=
    invoke_of_mayInvoke _ s hm
  refine ⟨hexec, fun hn ev rest hbig => ?_⟩
  obtain ⟨t, ht⟩ := ends_of_bigWriteByte
    (s := { s with eng := { s.eng with st := .txPoll }, env := { s.env with ctx := .writeByte b, ret := .noValue } })
    ⟨hn, by simp, hm.2⟩ rfl rfl hbig
  have heng : { s.eng with st := .idle } = s.eng := by rw [← hm.1]
  exact ⟨t, heng ▸ ht.completes (ev0 := []) hexec (.of_quiet rfl rfl rfl)⟩

end Sys2Proof.Machine
end

section
/-! PROOF. The Byte Transport's reads (41_byte_transport.md R101, R104): polling for a byte, and filling a buffer. -/

namespace Sys2Proof.Machine

/-! ## Polling for a byte -/

theorem reaches_rxData {s : State} (hl : Live s) (hst : s.eng.st = .rxPoll)
    (hd : dataReady s.par (lineByte s) = true) : Reaches s [.rd .lsr (lineByte s)] (goto .rxData (lineRead .lsr s)) :=
  .of_indexFree hl hst rfl
    (by rw [microRow, hst]; exact rxPollStep_of_ready hd) ((lineRead_during _ s).then_quiet (goto_during _ _))

theorem leadsTo_timeout {s : State} (hl : Live s) (hst : s.eng.st = .rxPoll)
    (hd : dataReady s.par (lineByte s) = false) (hk : s.eng.k = s.par.readPollLimit) :
    LeadsTo s [.rd .lsr (lineByte s)] rxDone (lineRead .lsr s) :=
  .of_indexFree hl hst rfl
    (by rw [microRow, hst]; exact rxPollStep_of_timeout hd hk) (lineRead_during _ s)

/-- A poll that sees DR clear, and the sleep after it. -/
theorem reaches_nextRxPoll {s : State} (hl : Live s) (hst : s.eng.st = .rxPoll)
    (hd : dataReady s.par (lineByte s) = false) (hk : s.eng.k ≠ s.par.readPollLimit) :
    Reaches s [.rd .lsr (lineByte s), .sleep s.par.pollInterval] (rxSleepStep (goto .rxSleep (lineRead .lsr s))) := by
  have hpoll : Reaches s [.rd .lsr (lineByte s)] (goto .rxSleep (lineRead .lsr s)) :=
    .of_indexFree hl hst rfl
      (by rw [microRow, hst]; exact rxPollStep_of_waiting hd hk) ((lineRead_during _ s).then_quiet (goto_during _ _))
  have hsleep : Reaches (goto .rxSleep (lineRead .lsr s)) [.sleep s.par.pollInterval]
      (rxSleepStep (goto .rxSleep (lineRead .lsr s))) :=
    .of_row (hl.during hpoll.during) rfl rfl rfl ((sleep_during _ _).then_quiet (.of_registers rfl rfl rfl rfl))
  exact hpoll.trans hsleep

/-- The polls of one byte read, with `n` polls left, on answers that end in a byte: the run comes to `RX_DATA`
(41_byte_transport.md R101). -/
theorem reaches_of_bigReadByte {p : Params} {n : Nat} {ws rest : List Word} {x : Byte} {ev : List Event}
    (h : bigReadByte p n ws = some (some x, ev, rest)) {s : State} (hl : Live s) (hp : s.par = p)
    (hst : s.eng.st = .rxPoll) (hline : s.env.line = ws) (hk : s.eng.k + n = p.readPollLimit + 1) :
    ∃ polls k w t, ev = polls ++ [.rd .data x] ∧ Reaches s polls t ∧ t.eng = { s.eng with k := k, st := .rxData } ∧
      t.env.line = w :: rest ∧ busByte w = x ∧ s.eng.k ≤ k ∧ k ≤ p.readPollLimit := by
  induction n generalizing s ws ev with
  | zero => cases h
  | succ n ih =>
    cases ws with
    | nil => cases h
    | cons w ws =>
      have hbyte := lineByte_of_line hline
      unfold bigReadByte at h
      split at h
      · rename_i hready
        cases ws with
        | nil => cases h
        | cons d ws =>
          cases h
          have hstep := reaches_rxData hl hst (by rw [hbyte, hp]; exact hready)
          exact ⟨[.rd .lsr (busByte w)], s.eng.k, d, goto .rxData (lineRead .lsr s), rfl, hbyte ▸ hstep, rfl,
            lineRead_line .lsr hline, rfl, Nat.le_refl _, by omega⟩
      · rename_i hclear
        split at h
        · cases h
        · rename_i hn
          split at h
          · cases h
          · rename_i b ev' rest' hrec
            cases h
            have hstep := reaches_nextRxPoll hl hst (by rw [hbyte, hp]; simpa using hclear) (by rw [hp]; omega)
            obtain ⟨polls, k, v, t, rfl, hrun, ht, hrest, hv, hlow, hhigh⟩ := ih hrec (hl.during hstep.during) hp rfl
              (lineRead_line .lsr hline) (by simp [rxSleepStep]; omega)
            refine ⟨.rd .lsr (busByte w) :: .sleep p.pollInterval :: polls, k, v, t, rfl, ?_, ht, hrest, hv, ?_, hhigh⟩
            · exact hp ▸ hbyte ▸ hstep.trans hrun
            · exact Nat.le_trans (Nat.le_succ _) hlow

/-- The same on answers that end in a timeout: the last poll ends the read. -/
theorem leadsTo_of_bigReadByte_timeout {p : Params} {n : Nat} {ws rest : List Word} {ev : List Event}
    (h : bigReadByte p n ws = some (none, ev, rest)) (hn : 1 ≤ n) {s : State} (hl : Live s) (hp : s.par = p)
    (hst : s.eng.st = .rxPoll) (hline : s.env.line = ws) (hk : s.eng.k + n = p.readPollLimit + 1) :
    ∃ u, LeadsTo s ev rxDone u ∧ u.eng = { s.eng with k := p.readPollLimit } ∧ u.env.line = rest := by
  induction n generalizing s ws ev with
  | zero => cases hn
  | succ n ih =>
    cases ws with
    | nil => cases h
    | cons w ws =>
      have hbyte := lineByte_of_line hline
      unfold bigReadByte at h
      split at h
      · cases ws <;> cases h
      · rename_i hclear
        have hclear : dataReady s.par (lineByte s) = false := by rw [hbyte, hp]; simpa using hclear
        split at h
        · rename_i hn0
          cases h
          have hkl : s.eng.k = p.readPollLimit := by omega
          have hlead := leadsTo_timeout hl hst hclear (by rw [hp, hkl])
          exact ⟨lineRead .lsr s, hbyte ▸ hlead, by rw [lineRead_eng, ← hkl], lineRead_line .lsr hline⟩
        · rename_i hn0
          split at h
          · cases h
          · rename_i b ev' rest' hrec
            cases h
            have hstep := reaches_nextRxPoll hl hst hclear (by rw [hp]; omega)
            obtain ⟨u, hlead, hu, hrest⟩ := ih hrec (Nat.pos_of_ne_zero hn0) (hl.during hstep.during) hp rfl
              (lineRead_line .lsr hline) (by simp [rxSleepStep]; omega)
            refine ⟨u, hp ▸ hbyte ▸ hstep.leadsTo hlead, ?_, hrest⟩
            rw [hu]
            simp [rxSleepStep, ← hst]

/-- A harness `READ_BYTE` that has started runs to its end. -/
theorem ends_of_bigReadByte {s : State} {b : Option Byte} {ev : List Event} {rest : List Word} (hl : Live s)
    (hst : s.eng.st = .rxPoll) (hc : s.env.ctx = .readByte) (hk : s.eng.k = 1) (hlimit : 1 ≤ s.par.readPollLimit)
    (h : bigReadByte s.par s.par.readPollLimit s.env.line = some (b, ev, rest)) :
    ∃ k t, 1 ≤ k ∧ k ≤ s.par.readPollLimit ∧ Ends s ev { s.eng with k := k, st := .idle } rest (.received b) t := by
  cases b with
  | none =>
    obtain ⟨u, hlead, hu, rfl⟩ := leadsTo_of_bigReadByte_timeout h hlimit hl rfl hst rfl (by omega)
    have hends := hlead.ends (v := .received none) (by rw [rxDone, hlead.during.ctx, hc])
    rw [hu] at hends
    exact ⟨_, _, hlimit, Nat.le_refl _, hends⟩
  | some x =>
    obtain ⟨polls, k, w, t, rfl, hrun, ht, hline, rfl, hlow, hhigh⟩ := reaches_of_bigReadByte h hl rfl hst rfl (by omega)
    have hctx : t.env.ctx = .readByte := hrun.during.ctx.trans hc
    have hst' : t.eng.st = .rxData := by rw [ht]
    have hbyte := lineByte_of_line hline
    have hread : LeadsTo t [.rd .data (busByte w)] (fun u => .ok (finish (.received (some (busByte w))) u))
        (lineRead .data t) :=
      .of_row (hl.during hrun.during) (by rw [hst']; rfl) (by simp [indexInRange, hst', hctx])
        (by rw [microRow, hst', ← hbyte]; exact rxDataStep_of_readByte hctx) (hbyte ▸ lineRead_during _ t)
    have hends := (hrun.leadsTo hread).ends rfl
    rw [lineRead_eng, ht, lineRead_line _ hline] at hends
    exact ⟨k, _, by omega, hhigh, hends⟩

/-- Settles O16: the polls, then the byte or the timeout, which ends the operation. -/
theorem readByteRunsItsPseudocode : Obligations.ReadByteRunsItsPseudocode := by
  intro s hm
  have hexec : execReadByte s = .next { s with
      eng := { s.eng with k := 1, st := .rxPoll }, env := { s.env with ctx := .readByte, ret := .noValue } } :=
    invoke_of_mayInvoke _ s hm
  refine ⟨hexec, fun hn hlimit b ev rest hbig => ?_⟩
  obtain ⟨k, t, hlow, hhigh, ht⟩ := ends_of_bigReadByte
    (s := { s with eng := { s.eng with k := 1, st := .rxPoll }, env := { s.env with ctx := .readByte, ret := .noValue } })
    ⟨hn, by simp, hm.2⟩ rfl rfl rfl hlimit hbig
  have heng : { s.eng with k := k, st := .idle } = { s.eng with k := k } := by rw [← hm.1]
  obtain ⟨hcomp, hran⟩ := Ends.completes (i := .readByte) (s := s) (ev0 := []) (heng ▸ ht) hexec (.of_quiet rfl rfl rfl)
  exact ⟨k, t, hcomp, hlow, hhigh, hran⟩

/-! ## Filling a buffer -/

/-- The buffer of `n` bytes that holds `bs` (10_state.md R27). -/
def bufferOf (n : Nat) (bs : List Byte) : List (Option Byte) := bs.map some ++ List.replicate (n - bs.length) none

@[simp] theorem bufferOf_nil (n : Nat) : bufferOf n [] = List.replicate n none := rfl

theorem bufferOf_length {n : Nat} {bs : List Byte} (h : bs.length ≤ n) : (bufferOf n bs).length = n := by
  simp [bufferOf]; omega

theorem bufferOf_take (n : Nat) (bs : List Byte) : (bufferOf n bs).take bs.length = bs.map some := by
  simp [bufferOf]

theorem bufferOf_set {n : Nat} {bs : List Byte} (b : Byte) (h : bs.length < n) :
    (bufferOf n bs).set bs.length (some b) = bufferOf n (bs ++ [b]) := by
  have hn : n - bs.length = (n - (bs.length + 1)) + 1 := by omega
  unfold bufferOf
  rw [hn, List.replicate_succ, List.set_append_right _ _ (by simp)]
  simp

/-- The buffer of a read holds the bytes `got`. -/
structure HoldsBytes (got : List Byte) (s : State) : Prop where
  rbuf : s.eng.rbuf = bufferOf s.par.responseCapacity got
  rcount : s.eng.rcount = got.length

theorem indexInRange_of_rxData {s : State} (hst : s.eng.st = .rxData) (h : s.eng.rcount < s.eng.rbuf.length) :
    indexInRange s = true := by
  unfold indexInRange
  rw [hst]
  cases s.env.ctx
  case readByte => rfl
  all_goals exact decide_eq_true h

theorem rxMax_congr {s t : State} (hp : t.par = s.par) (hc : t.env.ctx = s.env.ctx) : rxMax t = rxMax s := by
  unfold rxMax
  rw [hp, hc]

/-- The registers of `s` after a read that received `bs`, with some poll counter and some micro-state. -/
def afterRead (s : State) (bs : List Byte) (k : Nat) (st : MicroState) : Engine :=
  { s.eng with rbuf := bufferOf s.par.responseCapacity bs, rcount := bs.length, k := k, st := st }

/-- One byte of a read is received after the bytes `got`: the run comes to the state with the byte stored, and from there to
the end of the read or to the first poll for the next byte (41_byte_transport.md R104). -/
theorem stored_of_bigReadByte {s : State} {got : List Byte} {b : Byte} {ev : List Event} {rest : List Word} (hl : Live s)
    (hst : s.eng.st = .rxPoll) (hk : s.eng.k = 1) (hc : s.env.ctx ≠ .readByte) (hgot : HoldsBytes got s)
    (hroom : got.length < s.par.responseCapacity)
    (h : bigReadByte s.par s.par.readPollLimit s.env.line = some (some b, ev, rest)) :
    ∃ u k, u.eng = afterRead s (got ++ [b]) k .rxData ∧ u.env.line = rest ∧
      (rxMax s = got.length + 1 → LeadsTo s ev rxDone u) ∧ (rxMax s ≠ got.length + 1 → Reaches s ev (nextByte u)) := by
  obtain ⟨polls, k, w, t, rfl, hrun, ht, hline, rfl, -, -⟩ := reaches_of_bigReadByte h hl rfl hst rfl (by omega)
  have hlt := hl.during hrun.during
  have hst' : t.eng.st = .rxData := by rw [ht]
  have hctx : t.env.ctx ≠ .readByte := by rw [hrun.during.ctx]; exact hc
  have hbyte := lineByte_of_line hline
  have hmax : rxMax t = rxMax s := rxMax_congr hrun.during.ran.par hrun.during.ctx
  have hrcount : t.eng.rcount = got.length := by rw [ht]; exact hgot.rcount
  have hlen : t.eng.rbuf.length = s.par.responseCapacity := by
    rw [ht]; exact hgot.rbuf ▸ bufferOf_length (Nat.le_of_lt hroom)
  have hrange : indexInRange t = true := indexInRange_of_rxData hst' (by rw [hrcount, hlen]; exact hroom)
  have ha : t.eng.st.active = true := by rw [hst']; rfl
  have hduring : During t [.rd .data (busByte w)] (byteStored t) := hbyte ▸ ⟨byteStored_ran t, rfl, rfl, rfl⟩
  refine ⟨byteStored t, k, ?_, lineRead_line .data hline, fun hlast => ?_, fun hmore => ?_⟩
  · simp [byteStored, ht, hbyte, hgot.rbuf, hgot.rcount, bufferOf_set _ hroom, afterRead]
  · refine hrun.leadsTo (.of_row hlt ha hrange ?_ hduring)
    rw [microRow, hst']
    exact rxDataStep_of_last hctx (by rw [hrcount, hmax, hlast])
  · refine hrun.trans (.of_row hlt ha hrange ?_ (hduring.then_quiet (.of_registers rfl rfl rfl rfl)))
    rw [microRow, hst']
    exact rxDataStep_of_more hctx (by rw [hrcount, hmax]; exact hmore.symm)

/-- `READ_BYTES` for `m` more bytes after the bytes `got`: the run comes to the end of the read (41_byte_transport.md R104). -/
theorem leadsTo_of_bigReadBytes {p : Params} {m : Nat} {ws rest : List Word} {bs : List Byte} {ev : List Event}
    (h : bigReadBytes p m ws = some (bs, ev, rest)) (hm : 1 ≤ m) (hlimit : 1 ≤ p.readPollLimit) {s : State} {got : List Byte}
    (hl : Live s) (hp : s.par = p) (hst : s.eng.st = .rxPoll) (hk : s.eng.k = 1) (hline : s.env.line = ws)
    (hc : s.env.ctx ≠ .readByte) (hgot : HoldsBytes got s) (hmax : rxMax s = got.length + m)
    (hcap : rxMax s ≤ p.responseCapacity) :
    ∃ u k st, LeadsTo s ev rxDone u ∧ u.eng = afterRead s (got ++ bs) k st ∧ u.env.line = rest := by
  induction m generalizing s got ws bs ev with
  | zero => cases hm
  | succ m ih =>
    subst hp hline
    unfold bigReadBytes at h
    split at h
    · cases h
    · rename_i ev' rest' hone
      cases h
      obtain ⟨u, hlead, hu, hrest⟩ := leadsTo_of_bigReadByte_timeout hone hlimit hl rfl hst rfl (by omega)
      refine ⟨u, s.par.readPollLimit, s.eng.st, hlead, ?_, hrest⟩
      rw [hu, afterRead, List.append_nil, ← hgot.rbuf, ← hgot.rcount]
    · rename_i b ev1 rest1 hone
      obtain ⟨u, k, hu, hline, hlast, hmore⟩ := stored_of_bigReadByte hl hst hk hc hgot (by omega) hone
      cases m with
      | zero =>
        cases h
        exact ⟨u, k, .rxData, by simpa using hlast hmax, hu, hline⟩
      | succ m =>
        split at h
        · cases h
        rename_i bs' ev' rest' hrec
        cases h
        have hreach := hmore (by omega)
        have hpar : (nextByte u).par = s.par := hreach.during.ran.par
        have heng : (nextByte u).eng = afterRead s (got ++ [b]) 1 .rxPoll := by rw [nextByte, hu]; rfl
        have hmaxn : rxMax (nextByte u) = rxMax s := rxMax_congr hpar hreach.during.ctx
        obtain ⟨v, k', st', hlead, hv, hrest⟩ := ih hrec (Nat.succ_pos m) (s := nextByte u) (got := got ++ [b])
          (hl.during hreach.during) hpar rfl rfl hline (by rw [hreach.during.ctx]; exact hc)
          ⟨by rw [heng, hpar]; rfl, by rw [heng]; rfl⟩ (by rw [hmaxn, hmax]; simp; omega) (by rw [hmaxn]; exact hcap)
        refine ⟨v, k', st', hreach.leadsTo hlead, ?_, hrest⟩
        rw [hv, afterRead, heng, hpar, List.append_assoc]
        rfl

/-- A harness `READ_BYTES` that has started runs to its end. -/
theorem ends_of_bigReadBytes {s : State} {m : Nat} {bs : List Byte} {ev : List Event} {rest : List Word} (hl : Live s)
    (hst : s.eng.st = .rxPoll) (hk : s.eng.k = 1) (hc : s.env.ctx = .readBytes m) (hempty : HoldsBytes [] s) (hm : 1 ≤ m)
    (hcap : m ≤ s.par.responseCapacity) (hlimit : 1 ≤ s.par.readPollLimit)
    (h : bigReadBytes s.par m s.env.line = some (bs, ev, rest)) :
    ∃ k t, Ends s ev (afterRead s bs k .idle) rest (.response (bufferOf s.par.responseCapacity bs) bs.length) t := by
  have hmax : rxMax s = m := by rw [rxMax, hc]
  obtain ⟨u, k, st, hlead, hu, rfl⟩ := leadsTo_of_bigReadBytes h hm hlimit hl rfl hst hk rfl (by rw [hc]; simp) hempty
    (by simpa using hmax) (by rw [hmax]; exact hcap)
  have hends := hlead.ends (v := .response u.eng.rbuf u.eng.rcount) (by rw [rxDone, hlead.during.ctx, hc])
  rw [hu] at hends
  exact ⟨k, _, hends⟩

/-- Settles O19: byte reads one after another until the count or a timeout, each byte stored after those before it. -/
theorem readBytesFillsAFreshBuffer : Obligations.ReadBytesFillsAFreshBuffer := by
  intro s m hm hcap
  have hrefuse : ¬ s.par.responseCapacity < m.toNat := Nat.not_lt.mpr hcap
  have hnone (h0 : m = 0) : execReadBytes m s = .next (returned (.response (List.replicate s.par.responseCapacity none) 0)
      { s with eng := { s.eng with rbuf := List.replicate s.par.responseCapacity none, rcount := 0 } }) := by
    rw [execReadBytes, if_neg hrefuse, invoke_of_mayInvoke _ s hm, if_pos h0]
    simp [settle, finish, returned, ← hm.1]
  have hsome (h0 : m ≠ 0) : execReadBytes m s = .next { s with
      eng := { s.eng with rbuf := List.replicate s.par.responseCapacity none, rcount := 0, k := 1, st := .rxPoll }
      env := { s.env with ctx := .readBytes m.toNat, ret := .noValue } } := by
    rw [execReadBytes, if_neg hrefuse, invoke_of_mayInvoke _ s hm, if_neg h0]
    rfl
  refine ⟨hnone, hsome, fun hn hlimit bs ev rest hbig => ?_⟩
  by_cases h0 : m = 0
  · rw [h0] at hbig
    cases hbig
    refine ⟨s.eng.k, _, ⟨_, hnone h0, runsTo_refl _⟩, Ran.ranTo (.of_quiet rfl rfl rfl) ?_ rfl rfl ?_⟩
    · simp [returned]
    · simp [returned]
  · have hpos : 1 ≤ m.toNat := Nat.pos_of_ne_zero fun h => h0 (BitVec.eq_of_toNat_eq h)
    obtain ⟨k, t, ht⟩ := ends_of_bigReadBytes (s := { s with
      eng := { s.eng with rbuf := List.replicate s.par.responseCapacity none, rcount := 0, k := 1, st := .rxPoll }
      env := { s.env with ctx := .readBytes m.toNat, ret := .noValue } })
      ⟨hn, by simp, hm.2⟩ rfl rfl rfl ⟨rfl, rfl⟩ hpos hcap hlimit hbig
    obtain ⟨hcomp, hran⟩ := ht.completes (i := .readBytes m) (s := s) (ev0 := []) (hsome h0) (.of_quiet rfl rfl rfl)
    refine ⟨k, t, hcomp, ?_⟩
    have heng : afterRead s bs k .idle = { s.eng with
        rbuf := bufferOf s.par.responseCapacity bs, rcount := bs.length, k := k } := by rw [← hm.1]; rfl
    exact heng ▸ hran

end Sys2Proof.Machine
end

section
/-! PROOF. The runs of the Frame Protocol (41_byte_transport.md R105; 42_frame_protocol.md R126 to R128): sending a sequence, an
attempt, the attempts of a command. -/

namespace Sys2Proof.Machine

/-! ## Sending a sequence -/

/-- The transmission under way in `s` is of the bytes `bs`. -/
structure Sends (s : State) (bs : List Byte) : Prop where
  len : txLen s = bs.length
  byte : ∀ i b, bs[i]? = some b → txByte { s with eng := { s.eng with txi := i } } = .ok b

/-- What is sent depends on neither the position nor the micro-state. -/
theorem Sends.congr {s t : State} {bs : List Byte} {i : Nat} {st : MicroState} (h : Sends s bs) (hp : t.par = s.par)
    (hc : t.env.ctx = s.env.ctx) (he : t.eng = { s.eng with txi := i, st := st }) : Sends t bs where
  len := by
    rw [← h.len]
    unfold txLen
    rw [hp, hc, he]
  byte j b hb := by
    rw [← h.byte j b hb]
    unfold txByte
    dsimp only
    rw [hp, hc, he]

theorem Sends.txByte {s : State} {bs : List Byte} {b : Byte} (h : Sends s bs) (hb : bs[s.eng.txi]? = some b) :
    txByte s = .ok b := h.byte _ _ hb

/-- The contexts whose transmission takes its bytes from `frame` or from the flush bytes. -/
def Ctx.sendsBuffer : Ctx → Bool
  | .writeByte _ => false
  | .writeBytes _ => false
  | _ => true

theorem sends_frame {s : State} {bs : List Byte} (hc : s.env.ctx.sendsBuffer = true) (hb : s.eng.txb = .frame)
    (hl : s.eng.frameLen = bs.length) (hf : s.eng.frame.take bs.length = bs.map some) : Sends s bs where
  len := by
    revert hc
    rw [txLen]
    cases s.env.ctx <;> simp [Ctx.sendsBuffer, hb, hl]
  byte i b hi := by
    have hget : s.eng.frame[i]? = some (some b) := by
      have hlt : i < bs.length := (List.getElem?_eq_some_iff.mp hi).1
      rw [← List.getElem?_take_of_lt hlt, hf, List.getElem?_map, hi]
      rfl
    have hread : readAt s.eng.frame i = .ok b := (readAt_eq_ok_iff _ _ _).mpr hget
    revert hc
    unfold txByte
    dsimp only
    cases s.env.ctx <;> simp [Ctx.sendsBuffer, hb, hread]

theorem sends_flush {s : State} (hc : s.env.ctx.sendsBuffer = true) (hb : s.eng.txb = .flush) :
    Sends s (List.replicate s.par.responseCapacity s.par.flushByte) where
  len := by
    revert hc
    rw [txLen]
    cases s.env.ctx <;> simp [Ctx.sendsBuffer, hb]
  byte i b hi := by
    have hv : s.par.flushByte = b := by
      rw [List.getElem?_replicate] at hi
      split at hi <;> cases hi
      rfl
    revert hc
    unfold txByte
    dsimp only
    cases s.env.ctx <;> simp [Ctx.sendsBuffer, hb, hv]

theorem indexInRange_of_txWrite {s : State} (hst : s.eng.st = .txWrite) (h : s.eng.txi < txLen s) : indexInRange s = true := by
  unfold indexInRange
  rw [hst]
  cases s.env.ctx
  case writeByte => rfl
  all_goals exact decide_eq_true h

/-- One byte of a sequence is sent: the run comes to the state with the byte written, and from there to the end of the
transmission or to the next byte's first poll (41_byte_transport.md R105). -/
theorem sent_of_bigWriteByte {s : State} {bs : List Byte} {b : Byte} {ev : List Event} {rest : List Word} (hl : Live s)
    (hst : s.eng.st = .txPoll) (hc : ∀ x, s.env.ctx ≠ .writeByte x) (hsend : Sends s bs) (hb : bs[s.eng.txi]? = some b)
    (h : bigWriteByte s.par b s.env.line = some (ev, rest)) :
    ∃ u, u.eng = { s.eng with txi := s.eng.txi + 1, st := .txWrite } ∧ u.env.line = rest ∧
      (s.eng.txi + 1 = bs.length → LeadsTo s ev (fun u => .ok (txDone u)) u) ∧
      (s.eng.txi + 1 ≠ bs.length → Reaches s ev (goto .txPoll u)) := by
  obtain ⟨polls, t, rfl, hrun, ht, hline⟩ := reaches_of_bigWriteByte h hl rfl hst rfl
  have hlt := hl.during hrun.during
  have hst' : t.eng.st = .txWrite := by rw [ht]
  have hctx : ∀ x, t.env.ctx ≠ .writeByte x := by rw [hrun.during.ctx]; exact hc
  have htxi : t.eng.txi = s.eng.txi := by rw [ht]
  have hsend' : Sends t bs := hsend.congr hrun.during.ran.par hrun.during.ctx (i := s.eng.txi) ht
  have hbyte : txByte t = .ok b := hsend'.txByte (by rw [htxi]; exact hb)
  have hlen : s.eng.txi < bs.length := (List.getElem?_eq_some_iff.mp hb).1
  have hrange : indexInRange t = true := indexInRange_of_txWrite hst' (by rw [hsend'.len, htxi]; exact hlen)
  have ha : t.eng.st.active = true := by rw [hst']; rfl
  have hduring : During t [.wr .data b] (byteSent b t) :=
    (lineWrite_during .data b t).then_quiet (.of_registers rfl rfl rfl rfl)
  refine ⟨byteSent b t, by rw [byteSent, ht], hline, fun hlast => ?_, fun hmore => ?_⟩
  · refine hrun.leadsTo (.of_row hlt ha hrange ?_ hduring)
    rw [microRow, hst']
    exact txWriteStep_of_last hctx hbyte (by rw [hsend'.len, htxi, hlast])
  · refine hrun.trans (.of_row hlt ha hrange ?_ (hduring.then_quiet (goto_during _ _)))
    rw [microRow, hst']
    exact txWriteStep_of_more hctx hbyte (by rw [hsend'.len, htxi]; exact hmore)

/-- `WRITE_BYTES` from the byte after `sent` on: the run comes to the end of the transmission (41_byte_transport.md R105). -/
theorem leadsTo_of_bigWriteBytes {p : Params} {bs : List Byte} {ws rest : List Word} {ev : List Event}
    (h : bigWriteBytes p bs ws = some (ev, rest)) (hne : bs ≠ []) {s : State} {sent : List Byte} (hl : Live s)
    (hp : s.par = p) (hst : s.eng.st = .txPoll) (hline : s.env.line = ws) (hc : ∀ x, s.env.ctx ≠ .writeByte x)
    (htxi : s.eng.txi = sent.length) (hsend : Sends s (sent ++ bs)) :
    ∃ u, LeadsTo s ev (fun u => .ok (txDone u)) u ∧
      u.eng = { s.eng with txi := (sent ++ bs).length, st := .txWrite } ∧ u.env.line = rest := by
  induction bs generalizing s sent ws ev with
  | nil => exact absurd rfl hne
  | cons b bs ih =>
    subst hp hline
    unfold bigWriteBytes at h
    split at h
    · cases h
    rename_i ev1 rest1 hone
    obtain ⟨u, hu, hline, hlast, hmore⟩ := sent_of_bigWriteByte hl hst hc hsend (by rw [htxi]; simp) hone
    cases bs with
    | nil =>
      cases h
      exact ⟨u, by simpa using hlast (by rw [htxi]; simp), by rw [hu, htxi]; simp, hline⟩
    | cons b' bs' =>
      split at h
      · cases h
      rename_i ev' rest' hrec
      cases h
      have hreach := hmore (by rw [htxi]; simp)
      have heng : (goto .txPoll u).eng = { s.eng with txi := s.eng.txi + 1, st := .txPoll } := by rw [goto_eng, hu]
      have hsend' := hsend.congr hreach.during.ran.par hreach.during.ctx heng
      obtain ⟨v, hlead, hv, hrest⟩ := ih hrec (by simp) (s := goto .txPoll u) (sent := sent ++ [b])
        (hl.during hreach.during) hreach.during.ran.par rfl hline (by rw [hreach.during.ctx]; exact hc)
        (by rw [heng, htxi]; simp) (by simpa using hsend')
      refine ⟨v, hreach.leadsTo hlead, ?_, hrest⟩
      rw [hv, heng]
      simp

/-! ## An attempt -/

/-- The contexts an attempt runs in (42_frame_protocol.md R127, R128). -/
def Ctx.attempts : Ctx → Bool
  | .attempt => true
  | c => c.sendsCommands

theorem Ctx.attempts_cases {c : Ctx} (h : c.attempts = true) :
    c = .attempt ∨ c = .engine ∨ c = .sendCommand ∨ c = .runSequence := by
  cases c <;> simp_all [Ctx.attempts, Ctx.sendsCommands]

/-- What an attempt's context is not. -/
theorem Ctx.attempts_facts {c : Ctx} (h : c.attempts = true) :
    c.sendsBuffer = true ∧ c.readsForAttempt = true ∧ (∀ x, c ≠ .writeByte x) ∧ c ≠ .readByte := by
  rcases Ctx.attempts_cases h with rfl | rfl | rfl | rfl <;> simp [Ctx.sendsBuffer, Ctx.readsForAttempt]

theorem rxMax_of_attempts {s : State} (h : s.env.ctx.attempts = true) : rxMax s = s.par.responseCapacity := by
  unfold rxMax
  rcases Ctx.attempts_cases h with hc | hc | hc | hc <;> rw [hc]

/-- The end of a transmission inside an attempt. -/
theorem txDone_of_attempts {s : State} (h : s.env.ctx.attempts = true) :
    (s.eng.txb = .frame → txDone s = beginRx .resp s) ∧ (s.eng.txb = .flush → txDone s = goto .settleFlush s) := by
  unfold txDone
  rcases Ctx.attempts_cases h with hc | hc | hc | hc <;> rw [hc] <;> exact ⟨fun hb => by rw [hb], fun hb => by rw [hb]⟩

/-- The registers differ at most in the micro-state and in those a transmission and a read write. -/
def SameCommand (e e' : Engine) : Prop := sameButTransfer e { e' with st := e.st }

theorem SameCommand.trans {e e' e'' : Engine} (h : SameCommand e e') (g : SameCommand e' e'') : SameCommand e e'' := by
  unfold SameCommand sameButTransfer at *
  rw [g] at h
  exact h

theorem SameCommand.attempt {e e' : Engine} (h : SameCommand e e') : e.attempt = e'.attempt := by
  unfold SameCommand sameButTransfer at h
  rw [h]

theorem SameCommand.cmdIdx {e e' : Engine} (h : SameCommand e e') : e.cmdIdx = e'.cmdIdx := by
  unfold SameCommand sameButTransfer at h
  rw [h]

/-- The frame and the acknowledgement of the command under way (10_state.md R25, R26). -/
structure HoldsCommand (frame ack : List Byte) (e : Engine) : Prop where
  frameLen : e.frameLen = frame.length
  frame : e.frame.take frame.length = frame.map some
  ackLength : ack.length = 3
  ack : e.ack = ack.map some

theorem HoldsCommand.congr {frame ack : List Byte} {e e' : Engine} (h : HoldsCommand frame ack e') (hs : SameCommand e e') :
    HoldsCommand frame ack e := by
  unfold SameCommand sameButTransfer at hs
  rw [hs]
  exact ⟨h.frameLen, h.frame, h.ackLength, h.ack⟩

/-- Where an attempt's parts run: the engine under way in a context of an attempt, with parameters within the constraints. -/
structure Attempting (s : State) : Prop extends Live s where
  ctx : s.env.ctx.attempts = true
  params : ParamsOk s.par

theorem Attempting.during {s t : State} {ev : List Event} (h : Attempting s) (d : During s ev t) : Attempting t :=
  { h.toLive.during d with ctx := by rw [d.ctx]; exact h.ctx, params := by rw [d.ran.par]; exact h.params }

/-- The response read of an attempt, or the drain of `RESYNC` inside it, from its first poll. -/
theorem Attempting.leadsTo_read {s : State} (ha : Attempting s) (hst : s.eng.st = .rxPoll) (hk : s.eng.k = 1)
    (hempty : HoldsBytes [] s) {bs : List Byte} {ev : List Event} {rest : List Word}
    (h : bigReadBytes s.par s.par.responseCapacity s.env.line = some (bs, ev, rest)) :
    ∃ u k st, LeadsTo s ev rxDone u ∧ u.eng = afterRead s bs k st ∧ u.env.line = rest := by
  have hmax := rxMax_of_attempts ha.ctx
  exact leadsTo_of_bigReadBytes h ha.params.capacity_pos ha.params.polls ha.toLive rfl hst hk rfl
    (Ctx.attempts_facts ha.ctx).2.2.2 hempty (by simpa using hmax) (Nat.le_of_eq hmax)

/-- The transmission of an attempt, or the flush of `RESYNC` inside it, from its first poll. -/
theorem Attempting.leadsTo_send {s : State} (ha : Attempting s) (hst : s.eng.st = .txPoll) (htxi : s.eng.txi = 0)
    {bs : List Byte} (hsend : Sends s bs) (hne : bs ≠ []) {ev : List Event} {rest : List Word}
    (h : bigWriteBytes s.par bs s.env.line = some (ev, rest)) :
    ∃ u, LeadsTo s ev (fun u => .ok (txDone u)) u ∧ u.eng = { s.eng with txi := bs.length, st := .txWrite } ∧
      u.env.line = rest :=
  leadsTo_of_bigWriteBytes h hne (sent := []) ha.toLive rfl hst rfl (Ctx.attempts_facts ha.ctx).2.2.1 htxi hsend

/-- The frame is sent and the response read starts. -/
theorem Attempting.reaches_response {s : State} (ha : Attempting s) (hst : s.eng.st = .txPoll) (htxb : s.eng.txb = .frame)
    (htxi : s.eng.txi = 0) {frame ack : List Byte} (hold : HoldsCommand frame ack s.eng) (hne : frame ≠ [])
    {ev : List Event} {rest : List Word} (h : bigWriteBytes s.par frame s.env.line = some (ev, rest)) :
    ∃ t, Reaches s ev t ∧ t.eng.st = .rxPoll ∧ t.eng.k = 1 ∧ t.eng.rxp = .resp ∧ HoldsBytes [] t ∧
      SameCommand t.eng s.eng ∧ t.env.line = rest := by
  have hsend := sends_frame (Ctx.attempts_facts ha.ctx).1 htxb hold.frameLen hold.frame
  obtain ⟨u, hlead, hu, hrest⟩ := ha.leadsTo_send hst htxi hsend hne h
  have hau := ha.during hlead.during
  have hdone : txDone u = beginRx .resp u := (txDone_of_attempts hau.ctx).1 (by rw [hu]; exact htxb)
  refine ⟨beginRx .resp u, hlead.reaches (congrArg Except.ok hdone) (.of_registers rfl rfl rfl rfl), rfl, rfl, rfl,
    ⟨rfl, rfl⟩, ?_, hrest⟩
  rw [beginRx_eng, hu]
  rfl

/-- `RESYNC` inside an attempt, from its first poll: the flush, the settle delay, the drain read (42_frame_protocol.md R126). -/
theorem Attempting.leadsTo_resync {s : State} (ha : Attempting s) (hst : s.eng.st = .txPoll) (htxb : s.eng.txb = .flush)
    (htxi : s.eng.txi = 0) {bs : List Byte} {ev : List Event} {rest : List Word}
    (h : bigResync s.par s.env.line = some (bs, ev, rest)) :
    ∃ u, LeadsTo s ev (fun u => .ok (attemptEnd .short u)) u ∧ SameCommand u.eng s.eng ∧ u.env.line = rest := by
  unfold bigResync at h
  split at h
  · cases h
  · rename_i ev1 rest1 hflush
    split at h
    · cases h
    · rename_i bs' ev2 rest2 hdrain
      cases h
      have hne : List.replicate s.par.responseCapacity s.par.flushByte ≠ [] :=
        List.ne_nil_of_length_pos (by simpa using ha.params.capacity_pos)
      obtain ⟨u, hlead, hu, hline⟩ := ha.leadsTo_send hst htxi (sends_flush (Ctx.attempts_facts ha.ctx).1 htxb) hne hflush
      have hau := ha.during hlead.during
      have hdone : txDone u = goto .settleFlush u := (txDone_of_attempts hau.ctx).2 (by rw [hu]; exact htxb)
      have hsettle := hlead.reaches (congrArg Except.ok hdone) (goto_during _ u)
      have hdelay : Reaches (goto .settleFlush u) [.sleep s.par.flushSettle] (settleFlushStep (goto .settleFlush u)) :=
        .of_row (ha.during hsettle.during).toLive rfl rfl rfl
          (hlead.during.ran.par ▸ (sleep_during u.par.flushSettle _).then_quiet (.of_registers rfl rfl rfl rfl))
      have hread := hsettle.trans hdelay
      have hpar : (settleFlushStep (goto .settleFlush u)).par = s.par := hread.during.ran.par
      obtain ⟨v, k, st, hlast, hv, hrest⟩ := (ha.during hread.during).leadsTo_read rfl rfl ⟨rfl, rfl⟩
        (bs := bs) (ev := ev2) (rest := rest) (by rw [hpar]; exact hline ▸ hdrain)
      have hend : rxDone v = .ok (attemptEnd .short v) :=
        rxDone_of_drain (by rw [hlast.during.ctx]; exact (Ctx.attempts_facts (ha.during hread.during).ctx).2.1)
          (by rw [hv]; rfl)
      refine ⟨v, by simpa using hread.leadsTo (hlast.congr hend), ?_, hrest⟩
      rw [hv]
      simp only [afterRead, settleFlushStep, beginRx_eng, sleep_eng, goto_eng, hu]
      rfl

end Sys2Proof.Machine
end

section
/-! PROOF. An attempt, the attempts of a command, a command (42_frame_protocol.md R127, R128). -/

namespace Sys2Proof.Machine

/-! ## The tests of a response -/

theorem checksumGood_of_judge {e : Engine} {o : AttemptOutcome} (h : judge e = .ok o) (ho : o = .nak ∨ o = .badCsum) :
    checksumGood e.rbuf = .ok (decide (o = .nak)) := by
  unfold judge at h
  split at h
  · cases h; simp at ho
  · cases hg : checksumGood e.rbuf with
    | error k => rw [hg] at h; cases h
    | ok good =>
      rw [hg] at h
      cases good with
      | false => cases h; rfl
      | true =>
        cases hm : ackMatches e.rbuf e.ack with
        | error k => rw [hm] at h; cases h
        | ok same =>
          rw [hm] at h
          cases same with
          | false => cases h; rfl
          | true => cases h; simp at ho

theorem four_le_of_judgeBytes {bs ack : List Byte} (h : judgeBytes bs ack ≠ .short) : 4 ≤ bs.length := by
  by_contra hlt
  exact h (by rw [judgeBytes, if_pos (by omega)])

/-- The end of an attempt that is not acknowledged: `DIAG_NAK` (42_frame_protocol.md R127). -/
theorem Attempting.leadsTo_nak {s : State} (ha : Attempting s) (hst : s.eng.st = .diagNak) {o : AttemptOutcome}
    (ho : o = .nak ∨ o = .badCsum) (hj : judge s.eng = .ok o) :
    LeadsTo s [.diag .nak []] (fun u => .ok (attemptEnd o u)) (diag .nak [] s) := by
  refine .of_indexFree ha.toLive hst rfl ?_
    (diag_during _ _ s)
  rw [microRow, hst]
  change diagNakStep s = .ok (attemptEnd o (diag .nak [] s))
  by_cases hc : s.env.ctx = .attempt
  · rw [diagNakStep_of_attempt hc, checksumGood_of_judge hj ho]
    rcases ho with rfl | rfl <;> rfl
  · have hc' : (diag .nak [] s).env.ctx ≠ .attempt := hc
    rw [diagNakStep_of_command hc, attemptEnd_of_failed .nak _ hc' (by simp),
      attemptEnd_of_failed o _ hc' (by rcases ho with rfl | rfl <;> simp)]

/-- `DIAG_CSUM`, with the response's first four bytes (42_frame_protocol.md R127). -/
theorem Attempting.reaches_csum {s : State} (ha : Attempting s) (hst : s.eng.st = .diagCsum) {bs : List Byte}
    (hlen : 4 ≤ bs.length) (hbuf : s.eng.rbuf = bufferOf s.par.responseCapacity bs) :
    Reaches s [.diag .csumErr (bs.take 4)] (goto .diagNak (diag .csumErr (bs.take 4) s)) := by
  have hread : readFirst 4 s.eng.rbuf = .ok (bs.take 4) := by
    refine (readFirst_eq_ok_iff _ _ _).mpr ⟨by simpa using hlen, ?_⟩
    have htake := congrArg (List.take 4) (bufferOf_take s.par.responseCapacity bs)
    rwa [List.take_take, Nat.min_eq_left hlen, ← hbuf, ← List.map_take] at htake
  refine .of_indexFree ha.toLive hst rfl ?_
    ((diag_during _ _ s).then_quiet (goto_during _ _))
  rw [microRow, hst]
  change diagCsumStep s = _
  rw [diagCsumStep, hread]

/-- `DIAG_SHORT`: the diagnostic, and the first poll of `RESYNC` (42_frame_protocol.md R127). -/
theorem Attempting.reaches_short {s : State} (ha : Attempting s) (hst : s.eng.st = .diagShort) :
    Reaches s [.diag .rxShort [BitVec.ofNat 8 s.eng.rcount]] (diagShortStep s) :=
  .of_indexFree ha.toLive hst rfl
    (by rw [microRow, hst]) ((diag_during _ _ s).then_quiet (.of_registers rfl rfl rfl rfl))

/-! ## An attempt -/

/-- What follows the response read, by the outcome of the tests (42_frame_protocol.md R127). -/
theorem Attempting.reaches_afterTests {s u : State} (ha : Attempting s) {ev : List Event} {frame ack bs : List Byte}
    (hx : s.eng.rxp = .resp) (hlead : LeadsTo s ev rxDone u) {k : Nat} {st : MicroState} (hu : u.eng = afterRead s bs k st)
    (hold : HoldsCommand frame ack s.eng) :
    judge u.eng = .ok (judgeBytes bs ack) ∧
      rxDone u = .ok (if judgeBytes bs ack = .acked then attemptEnd .acked u else goto (afterTests (judgeBytes bs ack)) u) := by
  have hresp : holdsResponse bs ack u := by
    refine ⟨by rw [hu]; rfl, by rw [hu]; exact bufferOf_take _ _, hold.ackLength, by rw [hu]; exact hold.ack⟩
  have hj := judge_of_holdsResponse bs ack u hresp
  refine ⟨hj, rxDone_of_judge ?_ (by rw [hu]; exact hx) hj⟩
  rw [hlead.during.ctx]
  exact (Ctx.attempts_facts ha.ctx).2.1

/-- A response with a bad checksum ends the attempt after two diagnostics (42_frame_protocol.md R127). -/
theorem Attempting.leadsTo_csum {s : State} (ha : Attempting s) (hst : s.eng.st = .diagCsum) {bs : List Byte}
    (hlen : 4 ≤ bs.length) (hbuf : s.eng.rbuf = bufferOf s.par.responseCapacity bs) (hj : judge s.eng = .ok .badCsum) :
    ∃ u, LeadsTo s [.diag .csumErr (bs.take 4), .diag .nak []] (fun u => .ok (attemptEnd .badCsum u)) u ∧
      SameCommand u.eng s.eng ∧ u.env.line = s.env.line := by
  have hcsum := ha.reaches_csum hst hlen hbuf
  exact ⟨_, hcsum.leadsTo ((ha.during hcsum.during).leadsTo_nak rfl (.inr rfl) hj), rfl, rfl⟩

/-- A short response ends the attempt after its diagnostic and `RESYNC` (42_frame_protocol.md R127). -/
theorem Attempting.leadsTo_short {s : State} (ha : Attempting s) (hst : s.eng.st = .diagShort) {drained : List Byte}
    {ev : List Event} {rest : List Word} (h : bigResync s.par s.env.line = some (drained, ev, rest)) :
    ∃ u, LeadsTo s (.diag .rxShort [BitVec.ofNat 8 s.eng.rcount] :: ev) (fun u => .ok (attemptEnd .short u)) u ∧
      SameCommand u.eng s.eng ∧ u.env.line = rest := by
  have hshort := ha.reaches_short hst
  obtain ⟨u, hlead, hu, hrest⟩ := (ha.during hshort.during).leadsTo_resync rfl rfl rfl h
  exact ⟨u, hshort.leadsTo hlead, hu.trans rfl, hrest⟩

/-- An attempt from its first poll: the run comes to the attempt's end with the outcome (42_frame_protocol.md R127). -/
theorem Attempting.leadsTo_attempt {s : State} (ha : Attempting s) (hst : s.eng.st = .txPoll) (htxb : s.eng.txb = .frame)
    (htxi : s.eng.txi = 0) {frame ack : List Byte} (hold : HoldsCommand frame ack s.eng) (hne : frame ≠ [])
    {o : AttemptOutcome} {ev : List Event} {rest : List Word}
    (h : bigAttempt s.par frame ack s.env.line = some (o, ev, rest)) :
    ∃ u, LeadsTo s ev (fun u => .ok (attemptEnd o u)) u ∧ SameCommand u.eng s.eng ∧ u.env.line = rest := by
  unfold bigAttempt at h
  split at h
  · cases h
  rename_i ev1 rest1 hsend
  split at h
  · cases h
  rename_i bs ev2 rest2 hresp
  obtain ⟨t, hreach, htst, htk, htx, hempty, hsame, rfl⟩ := ha.reaches_response hst htxb htxi hold hne hsend
  have hat := ha.during hreach.during
  obtain ⟨u, k, st, hlead, hu, rfl⟩ := hat.leadsTo_read htst htk hempty (by rw [hreach.during.ran.par]; exact hresp)
  obtain ⟨hj, hrx⟩ := hat.reaches_afterTests htx hlead hu (hold.congr hsame)
  have hread := hreach.leadsTo hlead
  have hsameu : SameCommand u.eng s.eng := SameCommand.trans (by rw [hu]; rfl) hsame
  have hgoto (hn : judgeBytes bs ack ≠ .acked) : Reaches s (ev1 ++ ev2) (goto (afterTests (judgeBytes bs ack)) u) :=
    hread.reaches (by rw [hrx, if_neg hn]) (goto_during _ u)
  have hsameg (st : MicroState) : SameCommand (goto st u).eng s.eng := SameCommand.trans (e' := u.eng) rfl hsameu
  cases ho : judgeBytes bs ack <;> simp only [ho] at h hj hrx hgoto
  case acked =>
    cases h
    exact ⟨u, hread.congr hrx, hsameu, rfl⟩
  case nak =>
    cases h
    have hreached := hgoto (by simp)
    exact ⟨_, hreached.leadsTo ((ha.during hreached.during).leadsTo_nak rfl (.inl rfl) hj), hsameg _, rfl⟩
  case badCsum =>
    cases h
    have hreached := hgoto (by simp)
    obtain ⟨v, hlast, hv, hrest⟩ := (ha.during hreached.during).leadsTo_csum rfl (four_le_of_judgeBytes (by rw [ho]; simp))
      (by rw [goto_eng, hu, goto_par, hlead.during.ran.par]; rfl) hj
    exact ⟨v, hreached.leadsTo hlast, hv.trans (hsameg _), hrest⟩
  case short =>
    split at h
    · cases h
    rename_i drained ev3 rest3 hresync
    cases h
    have hreached := hgoto (by simp)
    obtain ⟨v, hlast, hv, hrest⟩ := (ha.during hreached.during).leadsTo_short rfl (rest := rest)
      (by rw [hreached.during.ran.par]; exact hresync)
    have hcount : (goto (afterTests .short) u).eng.rcount = bs.length := by rw [goto_eng, hu]; rfl
    exact ⟨v, hcount ▸ hreached.leadsTo hlast, hv.trans (hsameg _), hrest⟩

end Sys2Proof.Machine
end

section
/-! PROOF. The attempts of a command and the command (42_frame_protocol.md R128), the sequence of the three commands, the
configuration and the accepted call (41_byte_transport.md R100; 43_shutdown_sequencer.md R150 to R158). -/

namespace Sys2Proof.Machine

/-! ## The attempts of a command -/

/-- A command's attempt is at its first poll, over this frame and this acknowledgement. -/
structure AttemptStart (frame ack : List Byte) (s : State) : Prop extends Attempting s where
  sends : s.env.ctx.sendsCommands = true
  st : s.eng.st = .txPoll
  txb : s.eng.txb = .frame
  txi : s.eng.txi = 0
  holds : HoldsCommand frame ack s.eng

theorem ctx_ne_attempt {s : State} (h : s.env.ctx.sendsCommands = true) : s.env.ctx ≠ .attempt := by
  intro hc
  rw [hc] at h
  cases h

theorem attemptEnd_again {o : AttemptOutcome} {s : State} (hc : s.env.ctx ≠ .attempt) (ho : o ≠ .acked)
    (hl : s.eng.attempt < s.par.retryLimit) : attemptEnd o s = beginAttempt s := by
  rw [attemptEnd_of_failed o s hc ho, attemptFailed, if_pos hl]
  rfl

theorem attemptEnd_exhausted {o : AttemptOutcome} {s : State} (hc : s.env.ctx ≠ .attempt) (ho : o ≠ .acked)
    (hl : ¬ s.eng.attempt < s.par.retryLimit) : attemptEnd o s = goto .diagExh s := by
  rw [attemptEnd_of_failed o s hc ho, attemptFailed, if_neg hl]
  rfl

theorem attemptEnd_acked {s : State} (hc : s.env.ctx ≠ .attempt) : attemptEnd .acked s = goto .postOk s := by
  unfold attemptEnd
  cases hx : s.env.ctx
  case attempt => exact absurd hx hc
  all_goals rfl

/-- An attempt from its first poll, for a command. -/
theorem AttemptStart.leadsTo {frame ack : List Byte} {s : State} (hs : AttemptStart frame ack s) (hne : frame ≠ [])
    {o : AttemptOutcome} {ev : List Event} {rest : List Word} (h : bigAttempt s.par frame ack s.env.line = some (o, ev, rest)) :
    ∃ u, LeadsTo s ev (fun u => .ok (attemptEnd o u)) u ∧ u.env.ctx ≠ .attempt ∧ SameCommand u.eng s.eng ∧ u.env.line = rest := by
  obtain ⟨u, hlead, hu, hrest⟩ := hs.leadsTo_attempt hs.st hs.txb hs.txi hs.holds hne h
  exact ⟨u, hlead, ctx_ne_attempt (by rw [hlead.during.ctx]; exact hs.sends), hu, hrest⟩

/-- The registers with this many attempts counted. -/
def withAttempt (n : Nat) (e : Engine) : Engine := { e with attempt := n }

theorem SameCommand.withAttempt {e e' : Engine} (h : SameCommand e e') (n : Nat) :
    SameCommand (withAttempt n e) (withAttempt n e') := by
  unfold SameCommand sameButTransfer at h
  rw [h]
  rfl

/-- After an attempt that was not acknowledged and not the last the next one starts at once. -/
theorem AttemptStart.next {frame ack : List Byte} {s u : State} {ev : List Event} (hs : AttemptStart frame ack s)
    (hreach : Reaches s ev (beginAttempt u)) (hu : SameCommand u.eng s.eng) : AttemptStart frame ack (beginAttempt u) :=
  have hold := hs.holds.congr hu
  { hs.toAttempting.during hreach.during with
    sends := by rw [hreach.during.ctx]; exact hs.sends
    st := rfl, txb := rfl, txi := rfl
    holds := ⟨hold.frameLen, hold.frame, hold.ackLength, hold.ack⟩ }

/-- Up to `n` more attempts: the run comes to the post-command delay or to the diagnostic of exhaustion
(42_frame_protocol.md R128). -/
theorem reaches_of_bigAttempts {p : Params} {frame ack : List Byte} (hne : frame ≠ []) {n : Nat} {ws rest : List Word}
    {ok : Bool} {made : Nat} {ev : List Event} (h : bigAttempts p frame ack n ws = some (ok, made, ev, rest)) (hn : 1 ≤ n)
    {s : State} (hs : AttemptStart frame ack s) (hp : s.par = p) (hline : s.env.line = ws)
    (hlimit : s.eng.attempt + n = p.retryLimit + 1) :
    ∃ t total, Reaches s ev t ∧ t.eng.st = (if ok = true then .postOk else .diagExh) ∧ total + 1 = s.eng.attempt + made ∧
      SameCommand t.eng (withAttempt total s.eng) ∧ t.env.line = rest := by
  induction n generalizing s ws ok made ev with
  | zero => cases hn
  | succ n ih =>
    subst hp hline
    unfold bigAttempts at h
    split at h
    · cases h
    · rename_i ev1 rest1 hone
      cases h
      obtain ⟨u, hlead, hc, hu, hrest⟩ := hs.leadsTo hne hone
      have hreach := hlead.reaches (congrArg Except.ok (attemptEnd_acked hc)) (goto_during _ u)
      exact ⟨goto .postOk u, s.eng.attempt, hreach, rfl, rfl, SameCommand.trans (e' := u.eng) rfl hu, hrest⟩
    · rename_i o ev1 rest1 ho hone
      obtain ⟨u, hlead, hc, hu, hrest1⟩ := hs.leadsTo hne hone
      have hpar : u.par = s.par := hlead.during.ran.par
      have hcount := hu.attempt
      split at h
      · cases h
      rename_i ok' made' ev2 rest2 hrec
      cases h
      by_cases hl : u.eng.attempt < u.par.retryLimit
      · have hreach := hlead.reaches (congrArg Except.ok (attemptEnd_again hc ho hl)) (.of_registers rfl rfl rfl rfl)
        have hnext : (beginAttempt u).eng.attempt = u.eng.attempt + 1 := rfl
        obtain ⟨t, total, hrun, ht, hmade, hsame, hrest⟩ := ih hrec (by rw [hpar] at hl; omega) (hs.next hreach hu) hpar hrest1
          (by omega)
        exact ⟨t, total, hreach.trans hrun, ht, by omega,
          hsame.trans (SameCommand.trans (e' := withAttempt total u.eng) rfl (hu.withAttempt total)), hrest⟩
      · have hreach := hlead.reaches (congrArg Except.ok (attemptEnd_exhausted hc ho hl)) (goto_during _ u)
        have hn0 : n = 0 := by rw [hpar] at hl; omega
        subst hn0
        cases hrec
        exact ⟨goto .diagExh u, s.eng.attempt, by simpa using hreach, rfl, rfl, SameCommand.trans (e' := u.eng) rfl hu, hrest1⟩

/-! ## A command -/

/-- A started command: its attempts, then the post-command delay, with the diagnostic before it where no attempt was
acknowledged (42_frame_protocol.md R128). -/
theorem leadsTo_of_bigSendCommand {pl : List Byte} {s : State} (hs : AttemptStart (frameOf pl) (ackOf (pl.getD 1 0)) s)
    (hfirst : s.eng.attempt = 1) {r : CommandRun} (h : bigSendCommand s.par s.eng.cmdIdx pl s.env.line = some r) :
    ∃ u, LeadsTo s r.events (commandDone r.result) u ∧ SameCommand u.eng { s.eng with attempt := r.attempts } ∧
      u.env.line = r.rest := by
  have hattempts {ok : Bool} {n : Nat} {ev : List Event} {rest : List Word}
      (h : bigAttempts s.par (frameOf pl) (ackOf (pl.getD 1 0)) s.par.retryLimit s.env.line = some (ok, n, ev, rest)) :
      ∃ t, Reaches s ev t ∧ t.eng.st = (if ok = true then .postOk else .diagExh) ∧
        SameCommand t.eng { s.eng with attempt := n } ∧ t.env.line = rest := by
    obtain ⟨t, total, hrun, hst, hmade, hsame, hrest⟩ :=
      reaches_of_bigAttempts (frameOf_ne_nil pl) h hs.params.retry hs rfl rfl (by omega)
    have hn : total = n := by omega
    exact ⟨t, hrun, hst, hn ▸ hsame, hrest⟩
  unfold bigSendCommand at h
  split at h
  · cases h
  · rename_i n ev rest hbig
    cases h
    obtain ⟨t, hrun, hst, hsame, rfl⟩ := hattempts hbig
    have hst : t.eng.st = .postOk := hst
    have hpar : t.par = s.par := hrun.during.ran.par
    have hdelay : LeadsTo t [.sleep s.par.postCmdDelay] (commandDone .ok) (sleep s.par.postCmdDelay t) :=
      .of_indexFree (hs.during hrun.during).toLive hst rfl
        (by rw [microRow, hst, ← hpar]; rfl) (sleep_during _ t)
    exact ⟨_, hrun.leadsTo hdelay, hsame, rfl⟩
  · rename_i n ev rest hbig
    cases h
    obtain ⟨t, hrun, hst, hsame, rfl⟩ := hattempts hbig
    have hst : t.eng.st = .diagExh := hst
    have hidx : t.eng.cmdIdx = s.eng.cmdIdx := hsame.cmdIdx
    have hdiag : Reaches t [.diag .exhausted [BitVec.ofNat 8 s.eng.cmdIdx.index]] (diagExhStep t) :=
      .of_indexFree (hs.during hrun.during).toLive hst rfl
        (by rw [microRow, hst]) (hidx ▸ (diag_during _ _ t).then_quiet (goto_during _ _))
    have hboth := hrun.trans hdiag
    have hpar : (diagExhStep t).par = s.par := hboth.during.ran.par
    have hdelay : LeadsTo (diagExhStep t) [.sleep s.par.postCmdDelay] (commandDone .fail) (sleep s.par.postCmdDelay (diagExhStep t)) :=
      .of_row (hs.during hboth.during).toLive rfl rfl (by rw [← hpar]; rfl) (sleep_during _ _)
    exact ⟨sleep s.par.postCmdDelay (diagExhStep t), by simpa using hboth.leadsTo hdelay, SameCommand.trans (e' := t.eng) rfl hsame, rfl⟩

end Sys2Proof.Machine
end

section
/-! PROOF. The configuration (41_byte_transport.md R100), the sequence of the three commands (43_shutdown_sequencer.md R156) and
the accepted call (R150 to R158). -/

namespace Sys2Proof.Machine

/-! ## The configuration -/

/-- The writes of the configuration, each with its value. -/
theorem exists_writes (p : Params) (d : Half) (f : Byte) :
    ∃ writes : List (LineReg × Byte), writes ≠ [] ∧ cfgSeq p (some d) f = writes.map (fun x => (x.1, some x.2)) ∧
      configureEvents p d f = writes.map (fun x => .wr x.1 x.2) := by
  unfold cfgSeq configureEvents
  cases p.lineBinding
  · exact ⟨[(.lcr, p.lcrDlabEntry), (.dll, lowByte d), (.dlm, highByte d), (.lcr, f), (.ier, p.ierInit), (.fcr, p.fcrInit),
      (.mcr, p.mcrInit)], by simp, rfl, rfl⟩
  · exact ⟨[(.lcr, f), (.dll, lowByte d), (.dlm, highByte d), (.ier, p.ierInit), (.fcr, p.fcrInit), (.mcr, p.mcrInit)],
      by simp, rfl, rfl⟩

theorem indexInRange_of_cfg {s : State} (hst : s.eng.st = .cfg) (h : s.eng.cfgJ < cfgLen s.par) : indexInRange s = true := by
  unfold indexInRange
  rw [hst]
  exact decide_eq_true h

/-- The registers after the last configuration write (41_byte_transport.md R100). -/
def configured (p : Params) (d : Half) (f : Byte) (e : Engine) : Engine :=
  { e with cfgJ := cfgLen p, cfgDivisor := some d, cfgFormat := some f }

/-- The configuration from the write after `made` on. -/
theorem leadsTo_of_writes {d : Half} {f : Byte} {made writes : List (LineReg × Byte)} (hne : writes ≠ []) {s : State}
    (hl : Live s) (hst : s.eng.st = .cfg) (hj : s.eng.cfgJ = made.length) (hop : cfgOperands s = (some d, f))
    (hseq : cfgSeq s.par (some d) f = (made ++ writes).map (fun x => (x.1, some x.2))) :
    ∃ u, LeadsTo s (writes.map (fun x => .wr x.1 x.2)) afterConfiguration u ∧ u.eng = configured s.par d f s.eng ∧
      u.env.line = s.env.line := by
  induction writes generalizing s made with
  | nil => exact absurd rfl hne
  | cons w writes ih =>
    have hlen : cfgLen s.par = made.length + (writes.length + 1) := by
      rw [← cfgSeq_length s.par (some d) f, hseq]; simp
    have hentry : (cfgSeq s.par (cfgOperands s).1 (cfgOperands s).2)[s.eng.cfgJ]? = some (w.1, some w.2) := by
      rw [hop, hseq, hj]; simp
    have hrange := indexInRange_of_cfg hst (by rw [hj, hlen]; omega)
    have hduring : During s [.wr w.1 w.2] (cfgWritten w.1 w.2 s) :=
      (lineWrite_during w.1 w.2 s).then_quiet (.of_registers rfl rfl rfl rfl)
    have ha : s.eng.st.active = true := by rw [hst]; rfl
    by_cases hlast : writes = []
    · subst hlast
      have hj' : s.eng.cfgJ + 1 = cfgLen s.par := by rw [hj, hlen]; rfl
      have hrow : microRow s = afterConfiguration (cfgRecorded d f (cfgWritten w.1 w.2 s)) := by
        rw [microRow, hst]
        change cfgStep s = _
        rw [cfgStep_of_last hentry hj' (by rw [hop]), hop]
      refine ⟨_, .of_row hl ha hrange hrow (hduring.then_quiet (.of_registers rfl rfl rfl rfl)), ?_, rfl⟩
      rw [configured, ← hj']
      rfl
    · have hj' : s.eng.cfgJ + 1 ≠ cfgLen s.par := by
        have := List.length_pos_iff.mpr hlast
        rw [hj, hlen]; omega
      have hstep : Reaches s [.wr w.1 w.2] (cfgWritten w.1 w.2 s) :=
        .of_row hl ha hrange (by rw [microRow, hst]; exact cfgStep_of_more hentry hj') hduring
      obtain ⟨u, hlead, hu, hline⟩ := ih hlast (s := cfgWritten w.1 w.2 s) (made := made ++ [w]) (hl.during hduring) hst
        (by simp [cfgWritten, hj]) hop (by simpa [cfgWritten] using hseq)
      exact ⟨u, hstep.leadsTo hlead, hu, hline⟩

/-- The whole configuration. -/
theorem leadsTo_of_configuration {s : State} {d : Half} {f : Byte} (hl : Live s) (hst : s.eng.st = .cfg)
    (hj : s.eng.cfgJ = 0) (hop : cfgOperands s = (some d, f)) :
    ∃ u, LeadsTo s (configureEvents s.par d f) afterConfiguration u ∧ u.eng = configured s.par d f s.eng ∧
      u.env.line = s.env.line := by
  obtain ⟨writes, hne, hseq, hev⟩ := exists_writes s.par d f
  rw [hev]
  exact leadsTo_of_writes hne (made := []) hl hst hj hop hseq

/-! ## The three commands -/

/-- A command of the sequence is at its first poll. -/
def sequenceStarted (c : Command) (s : State) : State :=
  commandStarted (s.par.payload.get c) { s with eng := { s.eng with cmdIdx := c } }

theorem beginCommand_ok {s : State} (c : Command) (hp : ParamsOk s.par) : beginCommand c s = .ok (sequenceStarted c s) := by
  rw [beginCommand_eq, if_neg (by simp [hp.payload c])]
  rfl

theorem sequenceStarted_during (c : Command) (s : State) : During s [] (sequenceStarted c s) := .of_registers rfl rfl rfl rfl

/-- The registers a command leaves, whatever its attempts transferred. -/
def afterCommand (p : Params) (c : Command) (made : Nat) (e : Engine) : Engine :=
  { e with
    cmdIdx := c
    attempt := made
    frame := overwriteFrame (p.payload.get c) e.frame
    frameLen := (p.payload.get c).length + 1
    ack := (ackOf ((p.payload.get c).getD 1 0)).map some }

/-- The result of the command under way is recorded (43_shutdown_sequencer.md R156). -/
def recordResult (r : CmdResult) (e : Engine) : Engine := { e with cmdResult := e.cmdResult.set e.cmdIdx r }

theorem SameCommand.afterCommand {e e' : Engine} (h : SameCommand e e') (p : Params) (c : Command) (n : Nat) :
    SameCommand (afterCommand p c n e) (afterCommand p c n e') := by
  unfold SameCommand sameButTransfer at h
  rw [h]
  rfl

theorem SameCommand.recordResult {e e' : Engine} (h : SameCommand e e') (r : CmdResult) :
    SameCommand (recordResult r e) (recordResult r e') := by
  unfold SameCommand sameButTransfer at h
  rw [h]
  rfl

/-- Where a command runs: the engine under way, in a context that sends commands. -/
structure Commanding (s : State) : Prop extends Live s where
  sends : s.env.ctx.sendsCommands = true
  params : ParamsOk s.par

theorem Commanding.during {s t : State} {ev : List Event} (h : Commanding s) (d : During s ev t) : Commanding t :=
  { h.toLive.during d with sends := by rw [d.ctx]; exact h.sends, params := by rw [d.ran.par]; exact h.params }

theorem Commanding.attemptStart {s : State} (h : Commanding s) (c : Command) :
    AttemptStart (frameOf (s.par.payload.get c)) (ackOf ((s.par.payload.get c).getD 1 0)) (sequenceStarted c s) :=
  { (h.during (sequenceStarted_during c s)).toLive with
    ctx := by
      change s.env.ctx.attempts = true
      have hc := h.sends
      unfold Ctx.attempts
      split
      · rfl
      · exact hc
    params := h.params
    sends := h.sends
    st := rfl, txb := rfl, txi := rfl
    holds := ⟨(frameOf_length _).symm, by rw [frameOf_length]; exact overwriteFrame_take _ _, ackOf_length _, rfl⟩ }

/-- A command of the sequence, from the row that begins it. -/
theorem LeadsTo.command {s s1 : State} {c : Command} {ev : List Event} {r : CommandRun} (h : LeadsTo s ev (beginCommand c) s1)
    (hs : Commanding s) (hbig : bigSendCommand s.par c (s.par.payload.get c) s1.env.line = some r) :
    ∃ u, LeadsTo s (ev ++ r.events) (commandDone r.result) u ∧
      SameCommand u.eng (Machine.afterCommand s.par c r.attempts s1.eng) ∧ u.env.line = r.rest := by
  have hs1 := hs.during h.during
  have hpar : s1.par = s.par := h.during.ran.par
  have hreach := h.reaches (beginCommand_ok c hs1.params) (sequenceStarted_during c s1)
  obtain ⟨u, hlead, hu, hrest⟩ := leadsTo_of_bigSendCommand (hs1.attemptStart c) rfl (r := r) (by
    change bigSendCommand s1.par c (s1.par.payload.get c) s1.env.line = some r
    rw [hpar]; exact hbig)
  exact ⟨u, hreach.leadsTo hlead, hpar ▸ hu, hrest⟩

/-- The end of a command that is not the last begins the next one. -/
theorem LeadsTo.next_command {s u : State} {c : Command} {ev : List Event} {r : CmdResult}
    (h : LeadsTo s ev (commandDone r) u) (hc : s.env.ctx ≠ .sendCommand) (hn : u.eng.cmdIdx.next? = some c) :
    LeadsTo s ev (beginCommand c) { u with eng := Machine.recordResult r u.eng } := by
  refine h.goes_on ?_ (.of_registers rfl rfl rfl rfl)
  have hctx : u.env.ctx ≠ .sendCommand := by rw [h.during.ctx]; exact hc
  unfold commandDone
  rw [hn]
  cases hx : u.env.ctx
  case sendCommand => exact absurd hx hctx
  all_goals rfl

/-- The three commands, from the row that begins the first (43_shutdown_sequencer.md R156). -/
theorem LeadsTo.sequence {s s1 : State} {ev ev' : List Event} {results : PerCommand CmdResult} {n : Nat} {rest : List Word}
    (h : LeadsTo s ev (beginCommand .watchdogKill) s1) (hs : Commanding s) (hc : s.env.ctx ≠ .sendCommand)
    (hbig : bigSequence s.par s1.env.line = some (results, n, ev', rest)) :
    ∃ u r, LeadsTo s (ev ++ ev') (commandDone r) u ∧ u.eng.cmdIdx = .powerOff ∧
      SameCommand (Machine.recordResult r u.eng) (sequenceDone s.par results n s1.eng) ∧ u.env.line = rest := by
  unfold bigSequence at hbig
  split at hbig
  · cases hbig
  rename_i a ha
  split at hbig
  · cases hbig
  rename_i b hb
  split at hbig
  · cases hbig
  rename_i c hc3
  cases hbig
  obtain ⟨u1, h1, hu1, hl1⟩ := h.command hs ha
  have h2 := h1.next_command hc (c := .shutdownWait) (by rw [hu1.cmdIdx]; rfl)
  obtain ⟨u2, h2, hu2, hl2⟩ := h2.command hs (r := b) (hl1 ▸ hb)
  have h3 := h2.next_command hc (c := .powerOff) (by rw [hu2.cmdIdx]; rfl)
  obtain ⟨u3, h3, hu3, hl3⟩ := h3.command hs (r := c) (hl2 ▸ hc3)
  refine ⟨u3, c.result, by simpa using h3, by rw [hu3.cmdIdx]; rfl, ?_, hl3⟩
  have hfirst := (hu1.recordResult a.result).afterCommand s.par .shutdownWait b.attempts
  have hsecond := ((hu2.trans hfirst).recordResult b.result).afterCommand s.par .powerOff c.attempts
  exact (hu3.trans hsecond).recordResult c.result

/-! ## The accepted call -/

/-- The end of the engine's third command, and the return (43_shutdown_sequencer.md R158). -/
theorem LeadsTo.reaches_return {s u : State} {ev : List Event} {r : CmdResult} (h : LeadsTo s ev (commandDone r) u)
    (hs : Live s) (hc : s.env.ctx = .engine) (hidx : u.eng.cmdIdx = .powerOff) :
    ∃ t, runsTo s t ∧ Ran s (ev ++ [.ret .handled]) t ∧ t.eng = { Machine.recordResult r u.eng with st := .done } ∧
      t.env.line = u.env.line ∧ t.env.ctx = .engine ∧ t.env.ret = .call .handled := by
  have hctx : u.env.ctx = .engine := h.during.ctx.trans hc
  have hdone : commandDone r u = .ok (goto .returning { u with eng := Machine.recordResult r u.eng }) := by
    have hnext : u.eng.cmdIdx.next? = none := by rw [hidx]; rfl
    unfold commandDone
    rw [hctx, hnext]
    rfl
  have hreach := h.reaches hdone (.of_registers rfl rfl rfl rfl)
  have hlive := hs.during hreach.during
  have hlast := hlive.runsTo_row rfl rfl (t := returnStep (goto .returning { u with eng := Machine.recordResult r u.eng })) rfl
  exact ⟨_, runsTo_trans hreach.run hlast,
    hreach.during.ran.trans ((returnCall_ran .handled _).then_quiet (goto_ran .done _)), rfl, rfl, hctx, rfl⟩

/-- The engine right after it accepts a call, with an accepted call's run: the configuration, then the three commands
whatever their results, then the return (43_shutdown_sequencer.md R150, R155, R156, R158). -/
theorem ran_of_bigTrigger {s : State} (hl : Live s) (hp : ParamsOk s.par) (hc : s.env.ctx = .engine) (hst : s.eng.st = .cfg)
    (hj : s.eng.cfgJ = 0) (hd : s.eng.divisor = some (divisorOf s.par s.eng.tickRate)) {results : PerCommand CmdResult}
    {n : Nat} {ev : List Event} {rest : List Word}
    (h : bigTrigger s.par s.eng.tickRate s.env.line = some (results, n, ev, rest)) :
    ∃ t, runsTo s t ∧ Ran s ev t ∧ t.eng.st = .done ∧
      SameCommand t.eng (sequenceDone s.par results n
        (configured s.par (divisorOf s.par s.eng.tickRate) s.par.lcrFormat s.eng)) ∧
      t.env.line = rest ∧ t.env.ctx = .engine ∧ t.env.ret = .call .handled := by
  unfold bigTrigger at h
  split at h
  · cases h
  rename_i results n ev rest hseq
  cases h
  have hop : cfgOperands s = (some (divisorOf s.par s.eng.tickRate), s.par.lcrFormat) := by rw [cfgOperands, hc, ← hd]
  have hs : Commanding s := { hl with sends := by rw [hc]; rfl, params := hp }
  obtain ⟨u, hconf, hu, hline⟩ := leadsTo_of_configuration hl hst hj hop
  have hbegin : afterConfiguration u = beginCommand .watchdogKill u := by
    rw [afterConfiguration, hconf.during.ctx, hc]
  obtain ⟨v, r, hv, hidx, hsame, hrest⟩ := (hconf.congr hbegin).sequence hs (by rw [hc]; simp) (hline ▸ hseq)
  obtain ⟨t, hrun, hran, heng, htl, hctx, hret⟩ := hv.reaches_return hl hc hidx
  refine ⟨t, hrun, by simpa using hran, by rw [heng], ?_, htl.trans hrest, hctx, hret⟩
  rw [heng, ← hu]
  exact SameCommand.trans (e' := Machine.recordResult r v.eng) rfl hsame

/-- Settles O34: the call is accepted, and the run that follows is the pseudocode's. -/
theorem acceptedTriggerRunsToHandled : Obligations.AcceptedTriggerRunsToHandled := by
  intro s reason arg hreason hm
  have hacc : accepted reason = true := by rcases hreason with rfl | rfl <;> rfl
  have hexec : execTrigger reason arg s = .next { s with
      eng := { s.eng with divisor := some (divisorOf s.par s.eng.tickRate), cfgJ := 0, st := .cfg }
      env := { s.env with trace := s.env.trace ++ [.trig reason arg], ctx := .engine, ret := .noValue } } := by
    simp [execTrigger, triggerCall, hm.2, hacc, hm.1, accept, emit]
  refine ⟨hexec, fun hn hi results n ev rest hbig => ?_⟩
  obtain ⟨t, hrun, hran, hdone, hsame, hline, hctx, hret⟩ := ran_of_bigTrigger (s := { s with
    eng := { s.eng with divisor := some (divisorOf s.par s.eng.tickRate), cfgJ := 0, st := .cfg }
    env := { s.env with trace := s.env.trace ++ [.trig reason arg], ctx := .engine, ret := .noValue } })
    ⟨hn, by simp, hm.2⟩ hi.ranges.paramsOk rfl rfl rfl rfl hbig
  have htrig : Ran s [.trig reason arg] { s with
      eng := { s.eng with divisor := some (divisorOf s.par s.eng.tickRate), cfgJ := 0, st := .cfg }
      env := { s.env with trace := s.env.trace ++ [.trig reason arg], ctx := .engine, ret := .noValue } } :=
    (emit_ran (.trig reason arg) s rfl rfl).then_quiet (.of_quiet rfl rfl rfl)
  refine ⟨t.eng, t, ⟨_, hexec, hrun⟩, ?_, (htrig.trans hran).ranTo rfl hline hctx hret⟩
  unfold SameCommand at hsame
  rw [hdone] at hsame
  exact hsame

end Sys2Proof.Machine
end

section
/-! PROOF. What an instruction keeps of its surroundings, and what can happen where the engine takes no step of its own: under a
fault, in `DONE`, in `IDLE` (10_state.md R33, R37). -/

namespace Sys2Proof.Machine

/-! ## Invocations -/

theorem finish_of_idle {s : State} (v : RetVal) (h : s.eng.st = .idle) : finish v s = returned v s := by
  simp [finish, returned, ← h]

theorem invoke_ok {run : State → Except FaultKind State} {s t : State} (hm : mayInvoke s)
    (h : run { s with env := { s.env with ret := .noValue } } = .ok t) : invoke none run s = .next t := by
  rw [invoke_of_mayInvoke run s hm, h]; rfl

theorem invoke_error {run : State → Except FaultKind State} {s : State} {k : FaultKind} (hm : mayInvoke s)
    (h : run { s with env := { s.env with ret := .noValue } } = .error k) : invoke none run s = .next (faulted k s) := by
  rw [invoke_of_mayInvoke run s hm, h]; rfl

theorem enter_surroundings (c : Ctx) (s : State) : SameSurroundings s (enter c s) := ⟨rfl, rfl, rfl, rfl, rfl, rfl, rfl, rfl⟩

theorem buildFrame_surroundings (p : List Byte) (s t : State) (h : buildFrame p s = .ok t) : SameSurroundings s t := by
  obtain ⟨-, rfl⟩ := buildFrame_ok p s t h
  exact ⟨rfl, rfl, rfl, rfl, rfl, rfl, rfl, rfl⟩

theorem sendFrame_surroundings (p : List Byte) (s t : State) (h : sendFrame p s = .ok t) : SameSurroundings s t := by
  obtain ⟨u, hu, rfl⟩ := exists_of_map_eq_ok h
  exact (buildFrame_surroundings p s u hu).trans ⟨rfl, rfl, rfl, rfl, rfl, rfl, rfl, rfl⟩

/-- A run that answers a value computed from the state only ends the invocation. -/
theorem map_finish_surroundings {α : Type} {x : Except FaultKind α} {v : α → RetVal} {s t : State}
    (h : x.map (fun a => finish (v a) s) = .ok t) : SameSurroundings s t := by
  obtain ⟨a, -, rfl⟩ := exists_of_map_eq_ok h
  exact finish_surroundings _ s

/-- Every instruction that is no host call is a harness invocation whose start touches no surroundings. -/
theorem exec_invocation_surroundings (i : Instr) (s : State) (h : isCall i = false) :
    ∃ run, exec i s = invoke (refusalOf i s) run s ∧ ∀ s0 t, run s0 = .ok t → SameSurroundings s0 t := by
  cases i <;> simp only [exec, execConfigure, execReadByte, execWriteByte, execReadBytes, execWriteBytes, execChecksum,
    execBuildFrame, execExpectedAck, execCheckLength, execVerifyChecksum, execCompareAck, execResync, execAttempt,
    execSendCommand, execComputeDivisor, execReconfigure, execRunSequence, execFrameWatchdogKill, execFrameShutdownWait,
    execFramePowerOff, execCommandFrame, execAckResponse, execExpectedAckRef, execResyncPreamble, refusalOf]
  case trigger => cases h
  case reasonShutdown => cases h
  case reasonHalt => cases h
  case readBytes m =>
    refine ⟨_, rfl, fun s0 t ht => ?_⟩
    split at ht <;> cases ht <;> exact ⟨rfl, rfl, rfl, rfl, rfl, rfl, rfl, rfl⟩
  case writeBytes bs =>
    refine ⟨_, rfl, fun s0 t ht => ?_⟩
    split at ht <;> cases ht <;> exact ⟨rfl, rfl, rfl, rfl, rfl, rfl, rfl, rfl⟩
  case buildFrame p =>
    refine ⟨_, rfl, fun s0 t ht => ?_⟩
    obtain ⟨u, hu, rfl⟩ := exists_of_map_eq_ok ht
    exact (buildFrame_surroundings p s0 u hu).trans (finish_surroundings _ u)
  case expectedAck p =>
    refine ⟨_, rfl, fun s0 t ht => ?_⟩
    obtain ⟨u, hu, rfl⟩ := exists_of_map_eq_ok ht
    obtain ⟨-, -, rfl⟩ := expectedAck_ok p s0 u hu
    exact ⟨rfl, rfl, rfl, rfl, rfl, rfl, rfl, rfl⟩
  case verifyChecksum => exact ⟨_, rfl, fun _ _ ht => map_finish_surroundings ht⟩
  case compareAck => exact ⟨_, rfl, fun _ _ ht => map_finish_surroundings ht⟩
  case attempt =>
    refine ⟨_, rfl, fun s0 t ht => ?_⟩
    have hbegin := (beginAttempt_surroundings s0).trans (enter_surroundings .attempt _)
    split at ht <;> cases ht
    · exact hbegin.trans (txDone_surroundings _)
    · exact hbegin
  case sendCommand p =>
    refine ⟨_, rfl, fun s0 t ht => ?_⟩
    rw [startCommand_eq] at ht
    split at ht <;> cases ht
    exact (enter_surroundings _ s0).trans (commandStarted_surroundings p _)
  case runSequence => exact ⟨_, rfl, fun s0 t ht => (enter_surroundings _ s0).trans (beginCommand_surroundings _ _ t ht)⟩
  case frameWatchdogKill => exact ⟨_, rfl, fun s0 t ht => sendFrame_surroundings _ s0 t ht⟩
  case frameShutdownWait => exact ⟨_, rfl, fun s0 t ht => sendFrame_surroundings _ s0 t ht⟩
  case framePowerOff => exact ⟨_, rfl, fun s0 t ht => sendFrame_surroundings _ s0 t ht⟩
  case commandFrame p => exact ⟨_, rfl, fun s0 t ht => sendFrame_surroundings p s0 t ht⟩
  all_goals exact ⟨_, rfl, fun s0 t ht => by cases ht; exact ⟨rfl, rfl, rfl, rfl, rfl, rfl, rfl, rfl⟩⟩

/-! ## Under a fault -/

/-- What an instruction does under a fault: a host call is recorded, and the call or the invocation hangs (10_state.md R33). -/
theorem exec_of_fault {i : Instr} {s t : State} (hf : s.eng.fault ≠ 0#8) (h : exec i s = .next t) :
    t = hung s ∨ ∃ r arg n, t = hung (emit (.trig r arg) { s with env := { s.env with hostCalls := n } }) := by
  cases hc : isCall i with
  | true =>
    obtain ⟨r, arg, n, he⟩ := exec_call i s hc
    rw [he] at h
    cases h
    rcases triggerCall_cases r arg { s with env := { s.env with hostCalls := n } } with
      ⟨-, ht⟩ | ⟨h0, -⟩ | ⟨h0, -⟩ | ⟨hm, -⟩
    · exact .inr ⟨r, arg, n, ht⟩
    · exact absurd h0 hf
    · exact absurd h0 hf
    · exact absurd hm.2 hf
  | false =>
    obtain ⟨run, he⟩ := exec_invocation i s hc
    rw [he] at h
    rcases invoke_cases (refusalOf i s) run s with ⟨-, hr⟩ | ⟨-, x, -, hr⟩ | ⟨-, -, -, hr⟩ | ⟨hm, -⟩
    · rw [hr] at h; cases h
    · rw [hr] at h; cases h
    · rw [hr] at h; cases h; exact .inl rfl
    · exact absurd hm.2 hf

/-- Settles O45: under a fault an instruction hangs, and a state with a call that hangs steps to itself. -/
theorem callsUnderAFaultNeverReturn : Obligations.CallsUnderAFaultNeverReturn := by
  refine ⟨fun s t i hf h => ?_, fun s n hn hc => ?_⟩
  · rcases exec_of_fault hf h with rfl | ⟨r, arg, n, rfl⟩
    · exact ⟨rfl, rfl, rfl, rfl, rfl, rfl, .inl rfl⟩
    · exact ⟨rfl, rfl, rfl, rfl, rfl, rfl, .inr ⟨r, arg, rfl⟩⟩
  · exact run_of_quiet s (stepServesRequestsBeforeTheProgram.2.2.1 s hn hc) n

/-! ## The step, where the engine takes none of its own -/

theorem engineRunning_of_fault {s : State} (hf : s.eng.fault ≠ 0#8) : engineRunning s = false := by
  simp [engineRunning, hf]

theorem engineRunning_of_inactive {s : State} (h : s.eng.st.active = false) : engineRunning s = false := by
  simp [engineRunning, h]

/-- A step without an attach and without an engine step: the host's pending call, nothing, or the program's next instruction
from a state that differs at most in the program. -/
theorem step_cases_of_resting {s t : State} (ha : s.env.attachReq = none) (hr : engineRunning s = false)
    (h : step s = .next t) :
    (∃ c, s.env.port = some c ∧ t = triggerCall (hostReason s.par c.code) c.arg { s with env := { s.env with port := none } }) ∨
    t = s ∨
    (∃ i program, s.env.program ≠ [] ∧ exec i { s with env := { s.env with program := program } } = .next t) := by
  rcases step_cases s with ⟨a, hreq, -⟩ | ⟨c, -, hp, hs⟩ | ⟨-, -, hs⟩ | ⟨-, -, hrun, -⟩ | ⟨-, -, -, hs⟩
  · rw [ha] at hreq; cases hreq
  · rw [hs] at h; cases h; exact .inl ⟨c, hp, rfl⟩
  · rw [hs] at h; cases h; exact .inr (.inl rfl)
  · rw [hr] at hrun; cases hrun
  · rcases hs with ⟨-, hs⟩ | ⟨e, -, hs⟩ | ⟨i, s1, hfetch, hs⟩ <;> rw [hs] at h
    · cases h; exact .inr (.inl rfl)
    · cases h
    · obtain ⟨item, left, rest, hprog, -, rfl⟩ := fetch_ok s s1 i hfetch
      exact .inr (.inr ⟨i, _, by rw [hprog]; simp, h⟩)

/-- No row raises a fault by anything but its own error, so a faulting step of a sound engine is the fault raised in its place
(60_exceptions.md R188, R189). -/
theorem microStep_fault {s t : State} (hf : s.eng.fault = 0#8) (h : microStep s = .next t) (ht : t.eng.fault ≠ 0#8) :
    ∃ k, t = raiseFault k s := by
  obtain ⟨-, hrow | ⟨k, -, rfl⟩⟩ := microStep_next s t h
  · exact absurd ((microRow_surroundings s t hrow).fault.trans hf) ht
  · exact ⟨k, rfl⟩

/-- A faulting call of a sound engine is a re-entry (43_shutdown_sequencer.md R152). -/
theorem triggerCall_fault {r : Reason} {arg : Word} {s : State} (hf : s.eng.fault = 0#8)
    (ht : (triggerCall r arg s).eng.fault ≠ 0#8) :
    triggerCall r arg s = faulted .reentrantTrigger (emit (.trig r arg) s) := by
  rcases triggerCall_cases r arg s with ⟨h, -⟩ | ⟨-, -, h⟩ | ⟨-, -, -, h⟩ | ⟨-, -, h⟩
  · exact absurd hf h
  · rw [h] at ht; exact absurd hf ht
  · exact h
  · rw [h] at ht; exact absurd hf ht

/-- `t` is `s` after the fault `k`, which came after the events `es`: of the engine, the record of accesses and the line only
`fault` has changed (10_state.md R33). -/
def FaultedAfter (k : FaultKind) (es : List Event) (s t : State) : Prop :=
  t.env.trace = s.env.trace ++ es ++ [.fault k] ∧ t.eng = { s.eng with fault := k.code } ∧ t.par = s.par ∧
    t.env.bus = s.env.bus ∧ t.env.line = s.env.line

/-- What is recorded before a fault: nothing, or the call that raised it. -/
def OnlyACall (es : List Event) : Prop := es = [] ∨ ∃ r arg, es = [.trig r arg]

/-- A faulting instruction of a sound engine: a re-entrant call, or an invocation ended by its fault. -/
theorem exec_fault {i : Instr} {s t : State} (hf : s.eng.fault = 0#8) (h : exec i s = .next t) (ht : t.eng.fault ≠ 0#8) :
    ∃ k es, OnlyACall es ∧ FaultedAfter k es s t := by
  cases hc : isCall i with
  | true =>
    obtain ⟨r, arg, n, he⟩ := exec_call i s hc
    rw [he] at h
    cases h
    rw [triggerCall_fault (s := { s with env := { s.env with hostCalls := n } }) hf ht]
    exact ⟨.reentrantTrigger, [.trig r arg], .inr ⟨r, arg, rfl⟩, rfl, rfl, rfl, rfl, rfl⟩
  | false =>
    obtain ⟨run, he, hkeep⟩ := exec_invocation_surroundings i s hc
    rw [he] at h
    rcases invoke_cases (refusalOf i s) run s with
      ⟨-, hr⟩ | ⟨-, x, -, hr⟩ | ⟨-, -, hne, -⟩ | ⟨-, -, ⟨u, hu, hr⟩ | ⟨k, -, hr⟩⟩
    · rw [hr] at h; cases h
    · rw [hr] at h; cases h
    · exact absurd hf hne
    · rw [hr] at h; cases h
      exact absurd ((hkeep _ _ hu).fault.trans hf) ht
    · rw [hr] at h; cases h
      exact ⟨k, [], .inl rfl, by simp [faulted], rfl, rfl, rfl, rfl⟩

/-- A faulting step of a sound engine. -/
theorem step_fault {s t : State} (hf : s.eng.fault = 0#8) (h : step s = .next t) (ht : t.eng.fault ≠ 0#8) :
    ∃ k es, OnlyACall es ∧ FaultedAfter k es s t := by
  rcases step_cases s with ⟨a, -, hs⟩ | ⟨c, -, -, hs⟩ | ⟨-, -, hs⟩ | ⟨-, -, -, hs⟩ | ⟨-, -, -, hs⟩
  · rw [hs, attach] at h
    split at h <;> cases h
    exact absurd rfl ht
  · rw [hs] at h
    cases h
    rw [triggerCall_fault (s := { s with env := { s.env with port := none } }) hf ht]
    exact ⟨.reentrantTrigger, _, .inr ⟨_, _, rfl⟩, rfl, rfl, rfl, rfl, rfl⟩
  · rw [hs] at h; cases h; exact absurd hf ht
  · rw [hs] at h
    obtain ⟨k, rfl⟩ := microStep_fault hf h ht
    exact ⟨k, [], .inl rfl, by simp [raiseFault], rfl, rfl, rfl, rfl⟩
  · rcases hs with ⟨-, hs⟩ | ⟨e, -, hs⟩ | ⟨i, s1, hfetch, hs⟩ <;> rw [hs] at h
    · cases h; exact absurd hf ht
    · cases h
    · obtain ⟨item, left, rest, -, -, rfl⟩ := fetch_ok s s1 i hfetch
      exact exec_fault (s := { s with env := { s.env with program := putBack item left rest } }) hf h ht

/-- Under a fault no step but attach touches the engine, the record of accesses or the line. -/
theorem step_of_fault {s t : State} (hf : s.eng.fault ≠ 0#8) (ha : s.env.attachReq = none) (h : step s = .next t) :
    t.par = s.par ∧ t.eng = s.eng ∧ t.env.bus = s.env.bus ∧ t.env.line = s.env.line := by
  rcases step_cases_of_resting ha (engineRunning_of_fault hf) h with ⟨c, -, rfl⟩ | rfl | ⟨i, program, -, hexec⟩
  · obtain ⟨hpar, heng, hbus, hline, -⟩ := callsUnderAFaultNeverReturn.1 { s with env := { s.env with port := none } } _
      (.trigger (hostReason s.par c.code) c.arg) hf rfl
    exact ⟨hpar, heng, hbus, hline⟩
  · exact ⟨rfl, rfl, rfl, rfl⟩
  · obtain ⟨hpar, heng, hbus, hline, -⟩ :=
      callsUnderAFaultNeverReturn.1 { s with env := { s.env with program := program } } t i hf hexec
    exact ⟨hpar, heng, hbus, hline⟩

/-- Settles O46: a fault stands in place of the whole step, and under one every instruction hangs. -/
theorem faultsArePreciseAndSticky : Obligations.FaultsArePreciseAndSticky := by
  refine ⟨fun _ _ _ => rfl, fun s t hf h ht => ?_, fun s t hf ha h => step_of_fault hf ha h, rfl, rfl, rfl⟩
  obtain ⟨k, es, hes, htrace, heng, hrest⟩ := step_fault hf h ht
  exact ⟨k, es, htrace, hes, heng, hrest⟩

/-! ## `DONE` and `IDLE` -/

/-- A host call outside `IDLE` changes no register but `fault`, and that only by the fault of re-entry. -/
theorem triggerCall_of_not_idle (r : Reason) (arg : Word) {s : State} (hst : s.eng.st ≠ .idle) :
    (triggerCall r arg s).par = s.par ∧ (triggerCall r arg s).env.bus = s.env.bus ∧
      ((triggerCall r arg s).eng = s.eng ∨ (triggerCall r arg s).eng = { s.eng with fault := 0x81 }) := by
  rcases triggerCall_cases r arg s with ⟨-, h⟩ | ⟨-, -, h⟩ | ⟨-, -, -, h⟩ | ⟨hm, -, -⟩
  · rw [h]; exact ⟨rfl, rfl, .inl rfl⟩
  · rw [h]; exact ⟨rfl, rfl, .inl rfl⟩
  · rw [h]; exact ⟨rfl, rfl, .inr rfl⟩
  · exact absurd hm.1 hst

/-- Outside `IDLE` an instruction that answers a next state is a host call. -/
theorem exec_of_not_idle {i : Instr} {s t : State} (hst : s.eng.st ≠ .idle) (h : exec i s = .next t) :
    ∃ r arg n, t = triggerCall r arg { s with env := { s.env with hostCalls := n } } := by
  cases hc : isCall i with
  | true =>
    obtain ⟨r, arg, n, he⟩ := exec_call i s hc
    rw [he] at h
    cases h
    exact ⟨r, arg, n, rfl⟩
  | false =>
    obtain ⟨run, he⟩ := exec_invocation i s hc
    rw [he] at h
    simp [invoke, hst] at h

/-- Settles O39: in `DONE` the engine has no step, an invocation is refused, and a call at most raises the fault of re-entry. -/
theorem doneIsTerminal : Obligations.DoneIsTerminal := by
  intro s t hst ha h
  have hne : s.eng.st ≠ .idle := by rw [hst]; simp
  have hquiet : t.par = s.par ∧ t.env.bus = s.env.bus ∧ (t.eng = s.eng ∨ t.eng = { s.eng with fault := 0x81 }) := by
    rcases step_cases_of_resting ha (engineRunning_of_inactive (by rw [hst]; rfl)) h with ⟨c, -, rfl⟩ | rfl | ⟨i, p, -, hexec⟩
    · exact triggerCall_of_not_idle (s := { s with env := { s.env with port := none } }) _ _ hne
    · exact ⟨rfl, rfl, .inl rfl⟩
    · obtain ⟨r, arg, n, rfl⟩ := exec_of_not_idle (s := { s with env := { s.env with program := p } }) hne hexec
      exact triggerCall_of_not_idle (s := { s with env := { s.env with program := p, hostCalls := n } }) r arg hne
  obtain ⟨hpar, hbus, heng | heng⟩ := hquiet
  · exact ⟨hpar, by rw [heng], hbus, fun hf => absurd (by rw [heng]) hf⟩
  · exact ⟨hpar, by rw [heng], hbus, fun _ => by rw [heng]⟩

/-- A host call that changes a register of an idle engine is accepted, and starts the configuration. -/
theorem triggerCall_of_idle {r : Reason} {arg : Word} {s : State} (hst : s.eng.st = .idle)
    (h : (triggerCall r arg s).eng ≠ s.eng) :
    s.eng.fault = 0#8 ∧ accepted r = true ∧ (triggerCall r arg s).eng.st = .cfg := by
  rcases triggerCall_cases r arg s with ⟨-, hc⟩ | ⟨-, -, hc⟩ | ⟨-, -, hne, -⟩ | ⟨hm, hacc, hc⟩
  · rw [hc] at h; exact absurd rfl h
  · rw [hc] at h; exact absurd rfl h
  · exact absurd hst hne
  · exact ⟨hm.2, hacc, by rw [hc]; rfl⟩

/-- The host's accepted codes are the two reason codes (30_encoding.md R78). -/
theorem accepted_hostReason {p : Params} {code : Nat} (h : accepted (hostReason p code) = true) :
    code = p.reasonCodeShutdown ∨ code = p.reasonCodeHalt := by
  unfold hostReason at h
  split at h
  · exact .inl ‹_›
  · split at h
    · exact .inr ‹_›
    · cases h

/-- Settles O12: an idle engine has no step of its own, and with no program only the host's call is left. -/
theorem idleWaitsForAnAcceptedCall : Obligations.IdleWaitsForAnAcceptedCall := by
  intro s t hst hprog ha h hne
  rcases step_cases_of_resting ha (engineRunning_of_inactive (by rw [hst]; rfl)) h with ⟨c, hp, rfl⟩ | rfl | ⟨i, p, hprog', -⟩
  · obtain ⟨hf, hacc, hcfg⟩ := triggerCall_of_idle (s := { s with env := { s.env with port := none } }) hst hne
    exact ⟨hf, hcfg, c, hp, accepted_hostReason hacc⟩
  · exact absurd rfl hne
  · exact absurd hprog hprog'

end Sys2Proof.Machine
end

section
/-! PROOF. The reset state, the layout of the status view (10_state.md R20, R34), and `BUILD_FRAME` (42_frame_protocol.md
R121). -/

namespace Sys2Proof.Machine

theorem reference_valid : paramsValid Params.reference 0 = true := by decide

/-- Settles O48: the reset state is what an attach with the reference parameters leaves of the initial surroundings. -/
theorem resetIsAnAttachedEngine : Obligations.ResetIsAnAttachedEngine := by
  refine ⟨rfl, rfl, rfl, rfl, attachNow_inv (a := ⟨Params.reference, 0, 60000000⟩) State.reset reference_valid, ?_, ?_⟩
  · intro (h : MicroState.idle = .rxData); cases h
  · intro (h : MicroState.idle = .txWrite); cases h

/-! ## The status view -/

theorem MicroState.code_lt (st : MicroState) : st.code < 16 := by cases st <;> decide

theorem CmdResult.code_lt (r : CmdResult) : r.code < 4 := by cases r <;> decide

theorem index_lt (c : Command) : c.index < 4 := by cases c <;> decide

/-- Every code fits its field of the status view. -/
theorem Engine.codes_lt (e : Engine) : e.st.code < 16 ∧ e.cmdIdx.index < 4 ∧ e.cmdResult.watchdogKill.code < 4 ∧
    e.cmdResult.shutdownWait.code < 4 ∧ e.cmdResult.powerOff.code < 4 :=
  ⟨e.st.code_lt, index_lt _, CmdResult.code_lt _, CmdResult.code_lt _, CmdResult.code_lt _⟩

theorem toNat_append_eq_add {n m : Nat} (x : BitVec n) (y : BitVec m) : (x ++ y).toNat = x.toNat * 2 ^ m + y.toNat := by
  rw [BitVec.toNat_append, ← Nat.shiftLeft_add_eq_or_of_lt y.isLt, Nat.shiftLeft_eq]

/-- The status view as a number: each field at the weight of its lowest bit (10_state.md R34). -/
theorem status_toNat (e : Engine) (hj : e.cfgJ ≤ 7) (ha : e.attempt ≤ 15) :
    (status e).toNat = e.fault.toNat * 2 ^ 24 + e.cmdResult.powerOff.code * 2 ^ 18 + e.cmdResult.shutdownWait.code * 2 ^ 16 +
      e.cmdResult.watchdogKill.code * 2 ^ 14 + e.attempt * 2 ^ 10 + e.cmdIdx.index * 2 ^ 8 + e.cfgJ * 2 ^ 4 + e.st.code := by
  obtain ⟨hst, hi, hw, hs, hp⟩ := e.codes_lt
  simp only [status, toNat_append_eq_add, BitVec.ofNat_eq_ofNat, BitVec.toNat_ofNat]
  omega

/-- A field read out of a word is the digit of that weight. -/
theorem toNat_extractLsb'_eq (x : Word) (start len : Nat) :
    (x.extractLsb' start len).toNat = x.toNat / 2 ^ start % 2 ^ len := by
  rw [BitVec.extractLsb'_toNat, Nat.shiftRight_eq_div_pow]

/-- Settles O49: the fields are the digits of the status view as a number. -/
theorem statusFieldsStandWhereTheSpecPutsThem : Obligations.StatusFieldsStandWhereTheSpecPutsThem := by
  intro e hj ha
  obtain ⟨hst, hi, hw, hs, hp⟩ := e.codes_lt
  have hf := e.fault.isLt
  refine ⟨?_, ?_, ?_, ?_, ?_, ?_, ?_, ?_, ?_, BitVec.eq_of_toNat_eq ?_⟩ <;>
    rw [toNat_extractLsb'_eq, status_toNat e hj ha] <;> omega

/-! ## `BUILD_FRAME` -/

theorem exec_buildFrame {s : State} {p : List Byte} (hm : mayInvoke s) (hl : p.length ≤ s.par.maxPayloadLen) :
    exec (.buildFrame p) s = .next (returned .noValue
      { s with eng := { s.eng with frame := overwriteFrame p s.eng.frame, frameLen := p.length + 1 } }) := by
  rw [exec, execBuildFrame]
  refine invoke_ok hm ?_
  rw [buildFrame, if_neg (Nat.not_lt.mpr hl)]
  exact congrArg Except.ok (finish_of_idle _ hm.1)

theorem exec_buildFrame_long {s : State} {p : List Byte} (hm : mayInvoke s) (hl : s.par.maxPayloadLen < p.length) :
    exec (.buildFrame p) s = .next (faulted .badPayload s) := by
  rw [exec, execBuildFrame]
  refine invoke_error hm ?_
  rw [buildFrame, if_pos hl]
  rfl

/-- Settles O22: a payload in range overwrites the front of the frame with itself and its checksum. -/
theorem buildFrameFillsTheFrame : Obligations.BuildFrameFillsTheFrame := by
  refine ⟨fun _ _ => rfl, fun s p hm hl => exec_buildFrame hm hl,
    fun s p hm hl => ⟨_, _, exec_buildFrame_long hm hl⟩, fun s t p hm hl h => ?_⟩
  rw [exec_buildFrame hm hl] at h
  cases h
  refine ⟨p, ?_, ?_⟩ <;> simp [overwriteFrame, frameOf]

end Sys2Proof.Machine
end

section
/-! PROOF. What a row of the step table writes (10_state.md R36): a register of its own, and then the registers of the way it
goes on. -/

namespace Sys2Proof.Machine

/-! ## What a row writes -/

/-- The registers `e` after the row's own writes, before it goes on (43_shutdown_sequencer.md R170). -/
inductive OwnWrites (s : State) : Engine → Prop
  | nothing : OwnWrites s s.eng
  | configWrite (hst : s.eng.st = .cfg) (hmore : s.eng.cfgJ + 1 ≠ cfgLen s.par) :
      OwnWrites s { s.eng with cfgJ := s.eng.cfgJ + 1 }
  | lastConfigWrite (d : Half) (f : Byte) (hst : s.eng.st = .cfg) (hlast : s.eng.cfgJ + 1 = cfgLen s.par) :
      OwnWrites s { s.eng with cfgJ := s.eng.cfgJ + 1, cfgDivisor := some d, cfgFormat := some f }
  | sent (hst : s.eng.st = .txWrite) : OwnWrites s { s.eng with txi := s.eng.txi + 1 }
  | stored (b : Byte) (hst : s.eng.st = .rxData) :
      OwnWrites s { s.eng with rbuf := s.eng.rbuf.set s.eng.rcount (some b), rcount := s.eng.rcount + 1 }
  | result (r : CmdResult) (hst : s.eng.st = .postOk ∨ s.eng.st = .exhSleep) : OwnWrites s (recordResult r s.eng)

/-- The ways a row goes on from the registers `e`, by the procedures of 43_shutdown_sequencer.md R170. -/
inductive GoesOn (s : State) (e : Engine) : Engine → Prop
  | stays (hst : e.st = .cfg ∨ e.st = .txPoll) : GoesOn s e e
  | moves (st : MicroState) (hst : st ≠ .rxPoll) : GoesOn s e { e with st := st }
  | pollsAgain (hst : s.eng.st = .rxSleep) : GoesOn s e { e with k := e.k + 1, st := .rxPoll }
  | nextByte : GoesOn s e { e with k := 1, st := .rxPoll }
  | reads (x : RxPurpose) :
      GoesOn s e { e with
        rxp := x, rbuf := List.replicate s.par.responseCapacity none, rcount := 0, k := 1, st := .rxPoll }
  | flushes : GoesOn s e { e with txb := .flush, txi := 0, st := .txPoll }
  | attempts : GoesOn s e { e with attempt := e.attempt + 1, txb := .frame, txi := 0, st := .txPoll }
  | commands (c : Command) (p : List Byte) (hst : s.eng.st = .cfg ∨ s.eng.st = .postOk ∨ s.eng.st = .exhSleep) :
      GoesOn s e { e with
        cmdIdx := c, frame := overwriteFrame p e.frame, frameLen := p.length + 1, ack := (ackOf (p.getD 1 0)).map some
        attempt := 1, txb := .frame, txi := 0, st := .txPoll }

/-- The row of `s` writes its own registers, and goes on to the registers `e'`. -/
def RowLeads (s : State) (e' : Engine) : Prop := ∃ e, OwnWrites s e ∧ GoesOn s e e'

/-! ## The procedures -/

theorem attemptEnd_goesOn (o : AttemptOutcome) (s u : State) : GoesOn s u.eng (attemptEnd o u).eng := by
  rcases attemptEnd_cases o u with ⟨-, h⟩ | ⟨-, -, h⟩ | ⟨-, -, -, h⟩ | ⟨-, -, -, h⟩ <;> rw [h]
  · exact .moves .idle (by simp)
  · exact .moves .postOk (by simp)
  · exact .attempts
  · exact .moves .diagExh (by simp)

theorem txDone_goesOn {s u : State} (hp : u.par = s.par) : GoesOn s u.eng (txDone u).eng := by
  rcases txDone_cases u with ⟨h, -⟩ | ⟨-, ⟨-, h⟩ | ⟨-, h⟩⟩ <;> rw [h]
  · exact .moves .idle (by simp)
  · rw [beginRx_eng, hp]; exact .reads .resp
  · exact .moves .settleFlush (by simp)

theorem rxDone_goesOn {s u t : State} (h : rxDone u = .ok t) : GoesOn s u.eng t.eng := by
  rcases rxDone_ok u t h with ⟨-, rfl⟩ | ⟨-, rfl⟩ | ⟨-, rfl⟩ | ⟨-, o, -, rfl⟩ | ⟨-, -, rfl⟩ | ⟨-, -, hj⟩
  · exact .moves .idle (by simp)
  · exact .moves .idle (by simp)
  · exact .moves .idle (by simp)
  · exact .moves .idle (by simp)
  · exact attemptEnd_goesOn .short s u
  · rcases hj with ⟨-, rfl⟩ | ⟨-, rfl⟩ | ⟨-, rfl⟩ | ⟨-, rfl⟩
    · exact .moves .diagShort (by simp)
    · exact .moves .diagCsum (by simp)
    · exact .moves .diagNak (by simp)
    · exact attemptEnd_goesOn .acked s u

theorem beginCommand_eq_ok {c : Command} {s t : State} (h : beginCommand c s = .ok t) : t = sequenceStarted c s := by
  rw [beginCommand_eq] at h
  split at h <;> cases h
  rfl

theorem beginCommand_goesOn {c : Command} {s u t : State} (h : beginCommand c u = .ok t)
    (hst : s.eng.st = .cfg ∨ s.eng.st = .postOk ∨ s.eng.st = .exhSleep) : GoesOn s u.eng t.eng := by
  rw [beginCommand_eq_ok h]
  exact .commands c (u.par.payload.get c) hst

theorem commandDone_leads {r : CmdResult} {s u t : State} (h : commandDone r u = .ok t) (hu : u.eng = s.eng)
    (hst : s.eng.st = .postOk ∨ s.eng.st = .exhSleep) : RowLeads s t.eng := by
  have hres : OwnWrites s (recordResult r u.eng) := by rw [hu]; exact .result r hst
  rcases commandDone_ok r u t h with ⟨-, rfl⟩ | ⟨-, c, -, hb⟩ | ⟨-, -, rfl⟩ | ⟨-, -, -, rfl⟩
  · exact ⟨u.eng, by rw [hu]; exact .nothing, .moves .idle (by simp)⟩
  · exact ⟨_, hres, beginCommand_goesOn hb (.inr hst)⟩
  · exact ⟨_, hres, .moves .idle (by simp)⟩
  · exact ⟨_, hres, .moves .returning (by simp)⟩

/-! ## The rows -/

theorem cfgStep_leads {s t : State} (hst : s.eng.st = .cfg) (h : cfgStep s = .ok t) : RowLeads s t.eng := by
  obtain ⟨r, v, -, ⟨hmore, rfl⟩ | ⟨hlast, d, -, ⟨-, rfl⟩ | ⟨-, hb⟩⟩⟩ := cfgStep_ok s t h
  · exact ⟨_, .configWrite hst hmore, .stays (.inl hst)⟩
  · exact ⟨_, .lastConfigWrite d _ hst hlast, .moves .idle (by simp)⟩
  · exact ⟨_, .lastConfigWrite d _ hst hlast, beginCommand_goesOn hb (.inl hst)⟩

theorem txPollStep_goesOn {s : State} (hst : s.eng.st = .txPoll) : GoesOn s s.eng (txPollStep s).eng := by
  unfold txPollStep
  split
  · exact .moves .txWrite (by simp)
  · exact .stays (.inr hst)

theorem txWriteStep_leads {s t : State} (hst : s.eng.st = .txWrite) (h : txWriteStep s = .ok t) : RowLeads s t.eng := by
  obtain ⟨b, -, ⟨-, rfl⟩ | ⟨-, u, rfl, ⟨-, rfl⟩ | ⟨-, rfl⟩⟩⟩ := txWriteStep_ok s t h
  · exact ⟨_, .nothing, txDone_goesOn (u := lineWrite .data b s) rfl⟩
  · exact ⟨_, .sent hst, txDone_goesOn (u := byteSent b s) rfl⟩
  · exact ⟨_, .sent hst, .moves .txPoll (by simp)⟩

theorem rxPollStep_goesOn {s t : State} (h : rxPollStep s = .ok t) : GoesOn s s.eng t.eng := by
  rcases rxPollStep_ok s t h with ⟨-, rfl⟩ | ⟨-, -, hd⟩ | ⟨-, -, rfl⟩
  · exact .moves .rxData (by simp)
  · exact rxDone_goesOn (u := lineRead .lsr s) hd
  · exact .moves .rxSleep (by simp)

theorem rxDataStep_leads {s t : State} (hst : s.eng.st = .rxData) (h : rxDataStep s = .ok t) : RowLeads s t.eng := by
  rcases rxDataStep_ok s t h with ⟨-, rfl⟩ | ⟨-, -, hd⟩ | ⟨-, -, rfl⟩
  · exact ⟨_, .nothing, .moves .idle (by simp)⟩
  · exact ⟨_, .stored _ hst, rxDone_goesOn hd⟩
  · exact ⟨_, .stored _ hst, .nextByte⟩

/-- What a row of the step table writes. -/
theorem microRow_leads {s t : State} (ha : s.eng.st.active = true) (h : microRow s = .ok t) : RowLeads s t.eng := by
  have only {e' : Engine} (hg : GoesOn s s.eng e') : RowLeads s e' := ⟨_, .nothing, hg⟩
  unfold microRow at h
  cases hst : s.eng.st <;> simp only [hst] at h
  case idle => rw [hst] at ha; cases ha
  case done => rw [hst] at ha; cases ha
  case cfg => exact cfgStep_leads hst h
  case txPoll => cases h; exact only (txPollStep_goesOn hst)
  case txWrite => exact txWriteStep_leads hst h
  case rxPoll => exact only (rxPollStep_goesOn h)
  case rxSleep => cases h; exact only (.pollsAgain hst)
  case rxData => exact rxDataStep_leads hst h
  case diagShort => cases h; exact only .flushes
  case settleFlush => cases h; exact only (.reads .drain)
  case diagCsum =>
    unfold diagCsumStep at h
    split at h <;> cases h
    exact only (.moves .diagNak (by simp))
  case diagNak =>
    obtain ⟨o, -, -, rfl⟩ := diagNakStep_ok s t h
    exact only (attemptEnd_goesOn o s (diag .nak [] s))
  case postOk => exact commandDone_leads h rfl (.inl hst)
  case diagExh => cases h; exact only (.moves .exhSleep (by simp))
  case exhSleep => exact commandDone_leads h rfl (.inr hst)
  case returning => cases h; exact only (.moves .done (by simp))

/-! ## The registers a row leaves alone -/

theorem OwnWrites.kept {s : State} {e : Engine} (h : OwnWrites s e) :
    e.st = s.eng.st ∧ e.k = s.eng.k ∧ e.divisor = s.eng.divisor ∧ e.frame = s.eng.frame ∧ e.frameLen = s.eng.frameLen ∧
      e.ack = s.eng.ack ∧ e.cmdIdx = s.eng.cmdIdx ∧ e.attempt = s.eng.attempt ∧ e.rxp = s.eng.rxp ∧ e.txb = s.eng.txb := by
  cases h <;> exact ⟨rfl, rfl, rfl, rfl, rfl, rfl, rfl, rfl, rfl, rfl⟩

theorem OwnWrites.cfgJ {s : State} {e : Engine} (h : OwnWrites s e) (hne : e.cfgJ ≠ s.eng.cfgJ) :
    s.eng.st = .cfg ∧ e.cfgJ = s.eng.cfgJ + 1 := by
  cases h with
  | configWrite hst => exact ⟨hst, rfl⟩
  | lastConfigWrite d f hst => exact ⟨hst, rfl⟩
  | _ => exact absurd rfl hne

theorem OwnWrites.configuration {s : State} {e : Engine} (h : OwnWrites s e)
    (hne : e.cfgFormat ≠ s.eng.cfgFormat ∨ e.cfgDivisor ≠ s.eng.cfgDivisor) :
    s.eng.st = .cfg ∧ s.eng.cfgJ + 1 = cfgLen s.par := by
  cases h with
  | lastConfigWrite d f hst hlast => exact ⟨hst, hlast⟩
  | _ => rcases hne with hne | hne <;> exact absurd rfl hne

theorem OwnWrites.txi {s : State} {e : Engine} (h : OwnWrites s e) (hne : e.txi ≠ s.eng.txi) :
    s.eng.st = .txWrite ∧ e.txi = s.eng.txi + 1 := by
  cases h with
  | sent hst => exact ⟨hst, rfl⟩
  | _ => exact absurd rfl hne

theorem OwnWrites.buffer {s : State} {e : Engine} (h : OwnWrites s e)
    (hne : e.rbuf ≠ s.eng.rbuf ∨ e.rcount ≠ s.eng.rcount) : s.eng.st = .rxData := by
  cases h with
  | stored b hst => exact hst
  | _ => rcases hne with hne | hne <;> exact absurd rfl hne

theorem OwnWrites.cmdResult {s : State} {e : Engine} (h : OwnWrites s e) (hne : e.cmdResult ≠ s.eng.cmdResult) :
    s.eng.st = .postOk ∨ s.eng.st = .exhSleep := by
  cases h with
  | result r hst => exact hst
  | _ => exact absurd rfl hne

theorem GoesOn.kept {s : State} {e e' : Engine} (h : GoesOn s e e') :
    e'.divisor = e.divisor ∧ e'.cfgJ = e.cfgJ ∧ e'.cfgFormat = e.cfgFormat ∧ e'.cfgDivisor = e.cfgDivisor ∧
      e'.cmdResult = e.cmdResult := by
  cases h <;> exact ⟨rfl, rfl, rfl, rfl, rfl⟩

theorem GoesOn.command {s : State} {e e' : Engine} (h : GoesOn s e e')
    (hne : e'.frame ≠ e.frame ∨ e'.frameLen ≠ e.frameLen ∨ e'.ack ≠ e.ack ∨ e'.cmdIdx ≠ e.cmdIdx) :
    s.eng.st = .cfg ∨ s.eng.st = .postOk ∨ s.eng.st = .exhSleep := by
  cases h with
  | commands c p hst => exact hst
  | _ => rcases hne with hne | hne | hne | hne <;> exact absurd rfl hne

theorem GoesOn.attempt {s : State} {e e' : Engine} (h : GoesOn s e e') (hne : e'.attempt ≠ e.attempt) :
    e'.st = .txPoll ∧ e'.txb = .frame ∧ e'.txi = 0 := by
  cases h with
  | attempts => exact ⟨rfl, rfl, rfl⟩
  | commands => exact ⟨rfl, rfl, rfl⟩
  | _ => exact absurd rfl hne

theorem GoesOn.buffer {s : State} {e e' : Engine} (h : GoesOn s e e') (hne : e'.rbuf ≠ e.rbuf ∨ e'.rcount ≠ e.rcount) :
    e'.st = .rxPoll ∧ e'.rcount = 0 ∧ e'.rbuf = List.replicate s.par.responseCapacity none := by
  cases h with
  | reads => exact ⟨rfl, rfl, rfl⟩
  | _ => rcases hne with hne | hne <;> exact absurd rfl hne

theorem GoesOn.rxp {s : State} {e e' : Engine} (h : GoesOn s e e') (hne : e'.rxp ≠ e.rxp) : e'.st = .rxPoll := by
  cases h with
  | reads => rfl
  | _ => exact absurd rfl hne

theorem GoesOn.txb {s : State} {e e' : Engine} (h : GoesOn s e e') (hne : e'.txb ≠ e.txb) : e'.st = .txPoll ∧ e'.txi = 0 := by
  cases h with
  | flushes => exact ⟨rfl, rfl⟩
  | attempts => exact ⟨rfl, rfl⟩
  | commands => exact ⟨rfl, rfl⟩
  | _ => exact absurd rfl hne

theorem GoesOn.txi {s : State} {e e' : Engine} (h : GoesOn s e e') (hne : e'.txi ≠ e.txi) : e'.txi = 0 := by
  cases h with
  | flushes => rfl
  | attempts => rfl
  | commands => rfl
  | _ => exact absurd rfl hne

/-- The poll counter starts at 1, and only the sleep between two polls adds to it (10_state.md R28). -/
theorem GoesOn.pollCounter {s : State} {e e' : Engine} (h : GoesOn s e e') :
    (e'.st = .rxPoll → s.eng.st ≠ .rxSleep → e'.k = 1) ∧ (e'.st ≠ .rxPoll → e'.k = e.k) := by
  cases h with
  | stays hst => exact ⟨fun h => by (rcases hst with hst | hst <;> rw [hst] at h <;> cases h), fun _ => rfl⟩
  | moves st hst => exact ⟨fun h => absurd h hst, fun _ => rfl⟩
  | pollsAgain hst => exact ⟨fun _ h => absurd hst h, fun h => absurd rfl h⟩
  | nextByte => exact ⟨fun _ _ => rfl, fun h => absurd rfl h⟩
  | reads => exact ⟨fun _ _ => rfl, fun h => absurd rfl h⟩
  | flushes => exact ⟨fun h => (nomatch h), fun _ => rfl⟩
  | attempts => exact ⟨fun h => (nomatch h), fun _ => rfl⟩
  | commands => exact ⟨fun h => (nomatch h), fun _ => rfl⟩

end Sys2Proof.Machine
end

section
/-! PROOF. The faults a row can raise, and the access table of 10_state.md R36. -/

namespace Sys2Proof.Machine

/-! ## The faults a row can raise -/

theorem readReg_error {α : Type} {r : Option α} {k : FaultKind} (h : readReg r = .error k) : k = .unwritten := by
  cases r <;> cases h
  rfl

theorem checksumGood_error {buf : List (Option Byte)} {k : FaultKind} (h : checksumGood buf = .error k) : k = .unwritten := by
  unfold checksumGood at h
  split at h <;> cases h
  exact readFirst_error _ _ _ ‹_›

theorem ackMatches_error {rbuf ack : List (Option Byte)} {k : FaultKind} (h : ackMatches rbuf ack = .error k) :
    k = .unwritten := by
  unfold ackMatches at h
  split at h
  · cases h
    exact readFirst_error _ _ _ ‹_›
  · split at h <;> cases h
    exact readFirst_error _ _ _ ‹_›

theorem judge_error {e : Engine} {k : FaultKind} (h : judge e = .error k) : k = .unwritten := by
  unfold judge at h
  split at h
  · cases h
  · split at h
    · cases h
      exact checksumGood_error ‹_›
    · cases h
    · split at h <;> cases h
      exact ackMatches_error ‹_›

theorem txByte_error {s : State} {k : FaultKind} (h : txByte s = .error k) : k = .unwritten := by
  unfold txByte at h
  split at h
  · cases h
  · exact readReg_error h
  · split at h
    · exact readAt_error _ _ _ h
    · cases h

theorem rxDone_error {s : State} {k : FaultKind} (h : rxDone s = .error k) : k = .unwritten := by
  unfold rxDone at h
  split at h
  case h_4 =>
    split at h <;> cases h
    exact judge_error ‹_›
  case h_5 =>
    split at h
    · cases h
    · split at h <;> cases h
      exact judge_error ‹_›
  all_goals cases h

theorem beginCommand_error {c : Command} {s : State} {k : FaultKind} (h : beginCommand c s = .error k) : k = .badPayload := by
  rw [beginCommand_eq] at h
  split at h <;> cases h
  rfl

theorem commandDone_error {r : CmdResult} {s : State} {k : FaultKind} (h : commandDone r s = .error k) : k = .badPayload := by
  unfold commandDone at h
  split at h
  · cases h
  · split at h
    · exact beginCommand_error h
    · split at h <;> cases h

theorem afterConfiguration_error {s : State} {k : FaultKind} (h : afterConfiguration s = .error k) : k = .badPayload := by
  unfold afterConfiguration at h
  cases hc : s.env.ctx <;> simp only [hc] at h
  case configure => cases h
  case reconfigure => cases h
  all_goals exact beginCommand_error h

theorem cfgStep_error {s : State} {k : FaultKind} (h : cfgStep s = .error k) : k = .unwritten ∨ k = .badPayload := by
  by_cases hv : ∃ r v, (cfgSeq s.par (cfgOperands s).1 (cfgOperands s).2)[s.eng.cfgJ]? = some (r, some v)
  · obtain ⟨r, v, hrv⟩ := hv
    by_cases hl : s.eng.cfgJ + 1 = cfgLen s.par
    · cases hd : (cfgOperands s).1 with
      | none => rw [cfgStep_of_no_divisor hl hd] at h; cases h; exact .inl rfl
      | some d =>
        rw [cfgStep_of_last hrv hl hd] at h
        exact .inr (afterConfiguration_error h)
    · rw [cfgStep_of_more hrv hl] at h; cases h
  · rw [cfgStep_of_no_value fun r v hrv => hv ⟨r, v, hrv⟩] at h
    cases h
    exact .inl rfl

theorem txWriteStep_error {s : State} {k : FaultKind} (h : txWriteStep s = .error k) : k = .unwritten := by
  unfold txWriteStep at h
  split at h
  · cases h
    exact txByte_error ‹_›
  · dsimp only at h
    split at h
    · cases h
    · split at h <;> cases h

theorem rxPollStep_error {s : State} {k : FaultKind} (h : rxPollStep s = .error k) : k = .unwritten := by
  unfold rxPollStep at h
  dsimp only at h
  split at h
  · cases h
  · split at h
    · exact rxDone_error h
    · cases h

theorem rxDataStep_error {s : State} {k : FaultKind} (h : rxDataStep s = .error k) : k = .unwritten := by
  unfold rxDataStep at h
  dsimp only at h
  split at h
  · cases h
  · split at h
    · exact rxDone_error h
    · cases h

theorem diagCsumStep_error {s : State} {k : FaultKind} (h : diagCsumStep s = .error k) : k = .unwritten := by
  unfold diagCsumStep at h
  split at h <;> cases h
  exact readFirst_error _ _ _ ‹_›

theorem diagNakStep_error {s : State} {k : FaultKind} (h : diagNakStep s = .error k) : k = .unwritten := by
  by_cases hc : s.env.ctx = .attempt
  · rw [diagNakStep_of_attempt hc] at h
    cases hg : checksumGood s.eng.rbuf with
    | ok good => rw [hg] at h; cases h
    | error k' => rw [hg] at h; cases h; exact checksumGood_error hg
  · rw [diagNakStep_of_command hc] at h; cases h

/-- A row faults on an unwritten byte or on a payload of the parameters out of range; re-entry is a call's fault
(60_exceptions.md R187). -/
theorem microRow_error {s : State} {k : FaultKind} (h : microRow s = .error k) : k = .unwritten ∨ k = .badPayload := by
  unfold microRow at h
  cases hst : s.eng.st <;> simp only [hst] at h
  case cfg => exact cfgStep_error h
  case txWrite => exact .inl (txWriteStep_error h)
  case rxPoll => exact .inl (rxPollStep_error h)
  case rxData => exact .inl (rxDataStep_error h)
  case diagCsum => exact .inl (diagCsumStep_error h)
  case diagNak => exact .inl (diagNakStep_error h)
  case postOk => exact .inr (commandDone_error h)
  case exhSleep => exact .inr (commandDone_error h)
  all_goals cases h

/-! ## The access table -/

/-- Settles O10: a row writes its own registers and those of the way it goes on, and a fault writes `fault` alone. -/
theorem engineStepsWriteOnlyTheirOwnRegisters : Obligations.EngineStepsWriteOnlyTheirOwnRegisters := by
  intro s t hm h
  obtain ⟨hf, ha, hrow | ⟨k, hk, rfl⟩⟩ := engine_step_cases hm h
  · have hsame := microRow_surroundings s t hrow
    obtain ⟨e, hw, hg⟩ := microRow_leads ha hrow
    obtain ⟨-, -, hdiv, hframe, hlen, hack, hidx, hatt, hrxp, htxb⟩ := hw.kept
    obtain ⟨gdiv, gj, gformat, gdivisor, gresult⟩ := hg.kept
    refine ⟨hsame.par, hsame.base, hsame.tickRate, gdiv.trans hdiv, hsame.program, hsame.hostCalls, ?_, ?_, ?_, ?_, ?_, ?_,
      ?_, ?_, ?_, fun hne => absurd hsame.fault hne⟩
    · rw [gj]; exact hw.cfgJ
    · rw [gformat, gdivisor]; exact hw.configuration
    · rw [← hframe, ← hlen, ← hack, ← hidx]; exact hg.command
    · rw [← hatt]; exact hg.attempt
    · intro hne
      by_cases hbuf : t.eng.rbuf = e.rbuf ∧ t.eng.rcount = e.rcount
      · rw [hbuf.1, hbuf.2] at hne
        exact .inl (hw.buffer hne)
      · exact .inr (hg.buffer (by tauto))
    · rw [← hrxp]; exact hg.rxp
    · rw [← htxb]; exact hg.txb
    · intro hne
      by_cases htxi : t.eng.txi = e.txi
      · rw [htxi] at hne ⊢
        exact .inr (hw.txi hne)
      · exact .inl (hg.txi htxi)
    · rw [gresult]; exact hw.cmdResult
  · -- a fault writes no register but `fault`, so of the other clauses none has its premise
    have hkind : raiseFault k s = raiseFault .unwritten s ∨ raiseFault k s = raiseFault .badPayload s := by
      rcases microRow_error hk with rfl | rfl
      · exact .inl rfl
      · exact .inr rfl
    refine ⟨rfl, rfl, rfl, rfl, rfl, rfl, ?_, ?_, ?_, ?_, ?_, ?_, ?_, ?_, ?_, fun _ => hkind⟩ <;> simp

/-! ## The poll counter -/

/-- The end of a read keeps what was received, and polls no more. -/
theorem rxDone_keeps_buffer {s t : State} (h : rxDone s = .ok t) :
    t.eng.st ≠ .rxSleep ∧ t.eng.st ≠ .rxData ∧ t.eng.rbuf = s.eng.rbuf ∧ t.eng.rcount = s.eng.rcount := by
  have attemptEnd_keeps (o : AttemptOutcome) : (attemptEnd o s).eng.st ≠ .rxSleep ∧ (attemptEnd o s).eng.st ≠ .rxData ∧
      (attemptEnd o s).eng.rbuf = s.eng.rbuf ∧ (attemptEnd o s).eng.rcount = s.eng.rcount := by
    rcases attemptEnd_cases o s with ⟨-, h⟩ | ⟨-, -, h⟩ | ⟨-, -, -, h⟩ | ⟨-, -, -, h⟩ <;> rw [h] <;> simp
  rcases rxDone_ok s t h with ⟨-, rfl⟩ | ⟨-, rfl⟩ | ⟨-, rfl⟩ | ⟨-, o, -, rfl⟩ | ⟨-, -, rfl⟩ | ⟨-, -, hj⟩
  · simp
  · simp
  · simp
  · simp
  · exact attemptEnd_keeps .short
  · rcases hj with ⟨-, rfl⟩ | ⟨-, rfl⟩ | ⟨-, rfl⟩ | ⟨-, rfl⟩
    · simp
    · simp
    · simp
    · exact attemptEnd_keeps .acked

theorem microRow_of_rxPoll {s : State} (hst : s.eng.st = .rxPoll) : microRow s = rxPollStep s := by rw [microRow, hst]

/-- Settles O13: every way on but the sleep starts the counter again or leaves it, and a poll that sees DR clear at the limit
ends the read. -/
theorem pollCounterCountsStatusPolls : Obligations.PollCounterCountsStatusPolls := by
  intro s t hm h hf
  obtain ⟨-, ha, hrow | ⟨k, -, rfl⟩⟩ := engine_step_cases hm h
  · obtain ⟨e, hw, hg⟩ := microRow_leads ha hrow
    obtain ⟨hfirst, hkeep⟩ := hg.pollCounter
    obtain ⟨-, hown, -⟩ := hw.kept
    refine ⟨hfirst, fun hst => ?_, fun hst => (hkeep hst).trans hown, fun hst hd => ?_, fun hst hd hk => ?_,
      fun hst hd hk => ?_⟩
    · rw [microRow, hst] at hrow
      cases hrow
      exact ⟨rfl, rfl, rfl⟩
    · rw [microRow_of_rxPoll hst, rxPollStep_of_ready hd] at hrow
      cases hrow
      rfl
    · rw [microRow_of_rxPoll hst, rxPollStep_of_waiting hd hk] at hrow
      cases hrow
      rfl
    · rw [microRow_of_rxPoll hst, rxPollStep_of_timeout hd hk] at hrow
      exact rxDone_keeps_buffer (s := lineRead .lsr s) hrow
  · exact absurd hf k.code_ne_zero

end Sys2Proof.Machine
end

section
/-! PROOF. The configuration: its writes one by one, and its harness run (41_byte_transport.md R100). -/

namespace Sys2Proof.Machine

/-- Settles O11: each write advances the index, and the last one records the configuration and leaves `CFG`. -/
theorem configurationWritesAreBackToBack : Obligations.ConfigurationWritesAreBackToBack := by
  refine ⟨fun s t hm hst h hf => ?_, fun p d f => ?_⟩
  · obtain ⟨-, -, hrow | ⟨k, -, rfl⟩⟩ := engine_step_cases hm h
    · rw [microRow, hst] at hrow
      obtain ⟨r, v, -, ⟨hmore, rfl⟩ | ⟨hlast, d, hd, ⟨-, rfl⟩ | ⟨-, hb⟩⟩⟩ := cfgStep_ok s t hrow
      · exact ⟨rfl, fun _ => ⟨hst, rfl, rfl, rfl⟩, fun hlast => absurd hlast hmore⟩
      · exact ⟨rfl, fun hlt => absurd hlast (Nat.ne_of_lt hlt), fun _ => ⟨by simp, rfl, hd.symm⟩⟩
      · rw [beginCommand_eq_ok hb]
        exact ⟨rfl, fun hlt => absurd hlast (Nat.ne_of_lt hlt),
          fun _ => ⟨by simp [sequenceStarted, commandStarted], rfl, hd.symm⟩⟩
    · exact absurd hf k.code_ne_zero
  · unfold cfgSeq
    cases p.lineBinding <;> rfl

/-- Settles O14: the writes of the sequence, and then the end of the invocation. -/
theorem configureWritesItsSequence : Obligations.ConfigureWritesItsSequence := by
  intro s d f hm
  have hexec : execConfigure d f s = .next { s with
      eng := { s.eng with cfgJ := 0, st := .cfg }, env := { s.env with ctx := .configure d f, ret := .noValue } } :=
    invoke_of_mayInvoke _ s hm
  refine ⟨hexec, fun hn => ?_⟩
  obtain ⟨u, hlead, hu, hline⟩ := leadsTo_of_configuration (d := d) (f := f) (s := { s with
      eng := { s.eng with cfgJ := 0, st := .cfg }, env := { s.env with ctx := .configure d f, ret := .noValue } })
    ⟨hn, by simp, hm.2⟩ rfl rfl rfl
  have hends := hlead.ends (v := .noValue) (by rw [afterConfiguration, hlead.during.ctx])
  rw [hu, hline] at hends
  obtain ⟨hcomp, hran⟩ := hends.completes (i := .configure d f) (s := s) (ev0 := []) hexec (.of_quiet rfl rfl rfl)
  have heng : { configured s.par d f { s.eng with cfgJ := 0, st := .cfg } with st := .idle } =
      { s.eng with cfgJ := cfgLen s.par, cfgDivisor := some d, cfgFormat := some f } := by rw [← hm.1]; rfl
  exact ⟨_, hcomp, heng ▸ hran⟩

end Sys2Proof.Machine
end

section
/-! PROOF. The harness's run of the three commands (43_shutdown_sequencer.md R156) and its attempt (42_frame_protocol.md R127). -/

namespace Sys2Proof.Machine

/-- What holds of the registers at the end of an invocation, back in `IDLE`. -/
theorem SameCommand.idle {e e' : Engine} (h : SameCommand e e') (hst : e'.st = .idle) :
    sameButTransfer { e with st := .idle } e' := by
  have hidle : SameCommand { e with st := .idle } e' := SameCommand.trans (e' := e) rfl h
  rw [SameCommand, ← hst] at hidle
  exact hst ▸ hidle

/-! ## `RUN_SEQUENCE` -/

/-- `s` inside a harness `RUN_SEQUENCE`, before its first command begins. -/
def sequenceEntered (s : State) : State := enter .runSequence { s with env := { s.env with ret := .noValue } }

/-- A command that has begun is where the row that begins it leads. -/
theorem leadsTo_of_sequenceStarted (c : Command) (s : State) :
    LeadsTo (sequenceStarted c s) [] (beginCommand c) s where
  during := .of_registers rfl rfl rfl rfl
  run t ht := by
    rw [beginCommand_eq_ok ht]
    exact runsTo_refl _

/-- A harness `RUN_SEQUENCE` ends with its third command. -/
theorem commandDone_of_runSequence {r : CmdResult} {s : State} (hc : s.env.ctx = .runSequence)
    (hidx : s.eng.cmdIdx = .powerOff) :
    commandDone r s = .ok (finish .noValue { s with eng := recordResult r s.eng }) := by
  have hnext : s.eng.cmdIdx.next? = none := by rw [hidx]; rfl
  rw [commandDone, hc, hnext]
  rfl

/-- Settles O33: the start begins the first command, and the three follow one another to the end of the invocation. -/
theorem runSequenceRunsItsPseudocode : Obligations.RunSequenceRunsItsPseudocode := by
  intro s hm hi
  have hp := hi.ranges.paramsOk
  have hexec : execRunSequence s = .next (sequenceStarted .watchdogKill (sequenceEntered s)) :=
    invoke_ok hm (beginCommand_ok (s := sequenceEntered s) .watchdogKill hp)
  refine ⟨hexec, fun hn results n ev rest hbig => ?_⟩
  have hctx : (sequenceStarted .watchdogKill (sequenceEntered s)).env.ctx = .runSequence := rfl
  have hcommanding : Commanding (sequenceStarted .watchdogKill (sequenceEntered s)) :=
    { noRequest := hn, notStuck := by rw [hctx]; simp, noFault := hm.2, sends := rfl, params := hp }
  obtain ⟨u, r, hlead, hidx, hsame, rfl⟩ := (leadsTo_of_sequenceStarted .watchdogKill (sequenceEntered s)).sequence
    hcommanding (by rw [hctx]; simp) hbig
  have hends := (hlead.goes_on (g := fun v => .ok (finish .noValue v))
    (commandDone_of_runSequence hlead.during.ctx hidx) (.of_registers rfl rfl rfl rfl)).ends rfl
  obtain ⟨hcomp, hran⟩ := hends.completes (i := .runSequence) (s := s) (ev0 := []) hexec (.of_quiet rfl rfl rfl)
  exact ⟨_, _, hcomp, hsame.idle hm.1, hran⟩

/-! ## `ATTEMPT` -/

theorem attemptEnd_of_harness {o : AttemptOutcome} {s : State} (hc : s.env.ctx = .attempt) :
    attemptEnd o s = finish (.attempt o) s := by
  unfold attemptEnd
  rw [hc]

/-- A harness `ATTEMPT` returns its outcome. -/
theorem LeadsTo.ends_attempt {s u : State} {ev : List Event} {o : AttemptOutcome}
    (h : LeadsTo s ev (fun u => .ok (attemptEnd o u)) u) (hc : s.env.ctx = .attempt) :
    Ends s ev { u.eng with st := .idle } u.env.line (.attempt o) (finish (.attempt o) u) :=
  h.ends (congrArg Except.ok (attemptEnd_of_harness (h.during.ctx.trans hc)))

/-- An attempt over an empty frame, from the first poll of its response read: nothing is sent before it,
so it has no first byte for `leadsTo_attempt` to start from (41_byte_transport.md R105; 42_frame_protocol.md R127). -/
theorem Attempting.leadsTo_unsent_attempt {s : State} (ha : Attempting s) (hst : s.eng.st = .rxPoll) (hk : s.eng.k = 1)
    (hx : s.eng.rxp = .resp) (hempty : HoldsBytes [] s) {ack : List Byte} (hold : HoldsCommand [] ack s.eng)
    {o : AttemptOutcome} {ev : List Event} {rest : List Word} (h : bigAttempt s.par [] ack s.env.line = some (o, ev, rest)) :
    ∃ u, LeadsTo s ev (fun u => .ok (attemptEnd o u)) u ∧ SameCommand u.eng s.eng ∧ u.env.line = rest := by
  simp only [bigAttempt, bigWriteBytes, List.nil_append] at h
  split at h
  · cases h
  rename_i bs ev2 rest2 hresp
  obtain ⟨u, k, st, hlead, hu, rfl⟩ := ha.leadsTo_read hst hk hempty hresp
  obtain ⟨hj, hrx⟩ := ha.reaches_afterTests hx hlead hu hold
  have hsame (st : MicroState) : SameCommand (goto st u).eng s.eng := by rw [goto_eng, hu]; rfl
  have hgoto (hn : judgeBytes bs ack ≠ .acked) : Reaches s ev2 (goto (afterTests (judgeBytes bs ack)) u) :=
    hlead.reaches (by rw [hrx, if_neg hn]) (goto_during _ u)
  cases ho : judgeBytes bs ack <;> simp only [ho] at h hj hrx hgoto
  case acked =>
    cases h
    exact ⟨u, hlead.congr hrx, by rw [hu]; rfl, rfl⟩
  case nak =>
    cases h
    have hreach := hgoto (by simp)
    exact ⟨_, hreach.leadsTo ((ha.during hreach.during).leadsTo_nak rfl (.inl rfl) hj), hsame _, rfl⟩
  case badCsum =>
    cases h
    have hreach := hgoto (by simp)
    obtain ⟨v, hlast, hv, hrest⟩ := (ha.during hreach.during).leadsTo_csum rfl (four_le_of_judgeBytes (by rw [ho]; simp))
      (by rw [goto_eng, hu, goto_par, hlead.during.ran.par]; rfl) hj
    exact ⟨v, hreach.leadsTo hlast, hv.trans (hsame _), hrest⟩
  case short =>
    split at h
    · cases h
    rename_i drained ev3 rest3 hresync
    cases h
    have hreach := hgoto (by simp)
    obtain ⟨v, hlast, hv, hrest⟩ := (ha.during hreach.during).leadsTo_short rfl (rest := rest)
      (by rw [hreach.during.ran.par]; exact hresync)
    have hcount : (goto (afterTests .short) u).eng.rcount = bs.length := by rw [goto_eng, hu]; rfl
    exact ⟨v, hcount ▸ hreach.leadsTo hlast, hv.trans (hsame _), hrest⟩

/-- `s` with the attempt counted and at the frame's first poll. -/
def attemptStarted (s : State) : State := enter .attempt (beginAttempt { s with env := { s.env with ret := .noValue } })

theorem exec_attempt_refused {s : State} (hst : s.eng.st = .idle) (hl : s.par.retryLimit ≤ s.eng.attempt) :
    exec .attempt s = .refused .attemptsUsedUp := by
  rw [exec, execAttempt, if_pos hl, invoke, if_neg (by simp [hst])]

theorem exec_attempt {s : State} (hm : mayInvoke s) (hl : s.eng.attempt < s.par.retryLimit) :
    exec .attempt s = .next (if s.eng.frameLen = 0 then beginRx .resp (attemptStarted s) else attemptStarted s) := by
  have hempty : txDone (attemptStarted s) = beginRx .resp (attemptStarted s) := (txDone_of_attempts rfl).1 rfl
  rw [exec, execAttempt, if_neg (Nat.not_le.mpr hl)]
  refine invoke_ok hm ?_
  dsimp only
  split
  · exact congrArg Except.ok hempty
  · rfl

/-- The frame and the acknowledgement an attempt of the harness runs over, as they stand (10_state.md R25, R26). -/
theorem Inv.holdsCommand {s : State} {frame ack : List Byte} (hi : Inv s)
    (hframe : s.eng.frame.take s.eng.frameLen = frame.map some) (hack : s.eng.ack = ack.map some) :
    HoldsCommand frame ack s.eng := by
  have hlen : s.eng.frameLen = frame.length := by
    have h := congrArg List.length hframe
    rw [List.length_take, List.length_map, hi.frameSize, Nat.min_eq_left hi.frameLenRange] at h
    exact h
  exact ⟨hlen, hlen ▸ hframe, by rw [← List.length_map (f := some), ← hack, hi.ackSize], hack⟩

/-- The run of a started attempt, over a frame with bytes or without. -/
theorem ends_of_bigAttempt {s : State} {frame ack : List Byte} (ha : Attempting (attemptStarted s))
    (hold : HoldsCommand frame ack s.eng) {o : AttemptOutcome} {ev : List Event} {rest : List Word}
    (h : bigAttempt s.par frame ack s.env.line = some (o, ev, rest)) :
    ∃ e t, Ends (if s.eng.frameLen = 0 then beginRx .resp (attemptStarted s) else attemptStarted s) ev
        { e with st := .idle } rest (.attempt o) t ∧
      SameCommand e { s.eng with attempt := s.eng.attempt + 1 } := by
  split
  · rename_i h0
    have hnil : frame = [] := List.eq_nil_of_length_eq_zero (hold.frameLen.symm.trans h0)
    subst hnil
    have hread : Attempting (beginRx .resp (attemptStarted s)) := ha.during (.of_registers rfl rfl rfl rfl)
    obtain ⟨u, hlead, hu, rfl⟩ := hread.leadsTo_unsent_attempt rfl rfl rfl ⟨rfl, rfl⟩
      ⟨hold.frameLen, hold.frame, hold.ackLength, hold.ack⟩ h
    exact ⟨u.eng, _, hlead.ends_attempt rfl, hu.trans rfl⟩
  · rename_i h0
    have hne : frame ≠ [] := fun hnil => h0 (by rw [hold.frameLen, hnil]; rfl)
    obtain ⟨u, hlead, hu, rfl⟩ := ha.leadsTo_attempt rfl rfl rfl
      ⟨hold.frameLen, hold.frame, hold.ackLength, hold.ack⟩ hne h
    exact ⟨u.eng, _, hlead.ends_attempt rfl, hu.trans rfl⟩

/-- Settles O28: the count is tested first, and the run that starts is the pseudocode's, over the frame as it stands. -/
theorem attemptRunsItsPseudocode : Obligations.AttemptRunsItsPseudocode := by
  refine ⟨fun s hst hl => exec_attempt_refused hst hl, fun s hm hl hlen => ?_,
    fun s frame ack o ev rest hm hn hi hl hframe hack hbig => ?_⟩
  · rw [exec_attempt hm hl, if_neg hlen]
    rfl
  · have ha : Attempting (attemptStarted s) :=
      { noRequest := hn, notStuck := by simp [attemptStarted], noFault := hm.2, ctx := rfl, params := hi.ranges.paramsOk }
    obtain ⟨e, t, hends, hsame⟩ := ends_of_bigAttempt ha (hi.holdsCommand hframe hack) hbig
    obtain ⟨hcomp, hran⟩ := hends.completes (i := .attempt) (s := s) (ev0 := []) (exec_attempt hm hl)
      (by split <;> exact .of_quiet rfl rfl rfl)
    exact ⟨_, t, hcomp, hsame.idle hm.1, hran⟩

end Sys2Proof.Machine
end

section
/-! PROOF. A harness `WRITE_BYTES` (41_byte_transport.md R105): a transmission that ends with its last byte. -/

namespace Sys2Proof.Machine

theorem sends_writeBytes {s : State} {bs : List Byte} (hc : s.env.ctx = .writeBytes bs) : Sends s bs where
  len := by rw [txLen, hc]
  byte i b hi := by
    rw [txByte, show ({ s with eng := { s.eng with txi := i } } : State).env.ctx = .writeBytes bs from hc]
    exact (readReg_eq_ok_iff _ _).mpr hi

/-- A harness `WRITE_BYTES` that has started runs to its end. -/
theorem ends_of_bigWriteBytes {s : State} {bs : List Byte} {ev : List Event} {rest : List Word} (hl : Live s)
    (hst : s.eng.st = .txPoll) (htxi : s.eng.txi = 0) (hc : s.env.ctx = .writeBytes bs) (hne : bs ≠ [])
    (h : bigWriteBytes s.par bs s.env.line = some (ev, rest)) :
    ∃ t, Ends s ev { s.eng with txi := bs.length, st := .idle } rest .noValue t := by
  obtain ⟨u, hlead, hu, rfl⟩ := leadsTo_of_bigWriteBytes h hne (sent := []) hl rfl hst rfl (by simp [hc]) htxi
    (sends_writeBytes hc)
  have hdone : txDone u = finish .noValue u := by rw [txDone, hlead.during.ctx, hc]
  have hends := hlead.ends (congrArg Except.ok hdone)
  rw [hu] at hends
  exact ⟨_, hends⟩

theorem exec_writeBytes_nil {s : State} (hm : mayInvoke s) :
    exec (.writeBytes []) s = .next (returned .noValue { s with eng := { s.eng with txi := 0 } }) := by
  have hend := finish_of_idle (s := { s with eng := { s.eng with txi := 0 }, env := { s.env with ret := .noValue } })
    .noValue hm.1
  rw [exec, execWriteBytes]
  exact invoke_ok hm ((if_pos rfl).trans (congrArg Except.ok hend))

theorem exec_writeBytes {s : State} {bs : List Byte} (hm : mayInvoke s) (hne : bs ≠ []) :
    exec (.writeBytes bs) s = .next { s with
      eng := { s.eng with txi := 0, st := .txPoll }
      env := { s.env with ctx := .writeBytes bs, ret := .noValue } } := by
  rw [exec, execWriteBytes]
  exact invoke_ok hm (if_neg hne)

/-- Settles O20: an empty list ends at its invocation; another list's bytes are sent one after another, and the last one ends
the operation. -/
theorem writeBytesSendsInOrder : Obligations.WriteBytesSendsInOrder := by
  intro s bs hm
  refine ⟨fun h => h ▸ exec_writeBytes_nil hm, exec_writeBytes hm, fun hn ev rest hbig => ?_⟩
  by_cases hne : bs = []
  · subst hne
    cases hbig
    exact ⟨_, ⟨_, exec_writeBytes_nil hm, runsTo_refl _⟩, Ran.ranTo (.of_quiet rfl rfl rfl) rfl rfl rfl rfl⟩
  · obtain ⟨t, ht⟩ := ends_of_bigWriteBytes (s := { s with
      eng := { s.eng with txi := 0, st := .txPoll }, env := { s.env with ctx := .writeBytes bs, ret := .noValue } })
      ⟨hn, by simp, hm.2⟩ rfl rfl rfl hne hbig
    have heng : { s.eng with txi := bs.length, st := .idle } = { s.eng with txi := bs.length } := by rw [← hm.1]
    exact ⟨t, heng ▸ ht.completes (ev0 := []) (exec_writeBytes hm hne) (.of_quiet rfl rfl rfl)⟩

end Sys2Proof.Machine
end

section
/-! PROOF. A poll's answer matters through the tested status bit alone (20_memory.md R53; 60_exceptions.md R193). -/

namespace Sys2Proof.Machine

/-- An engine step whose row does not fault. -/
theorem step_of_row {s t : State} (hm : engineMoves s) (hi : indexInRange s = true) (hrow : microRow s = .ok t) :
    step s = .next t := by
  rw [stepServesRequestsBeforeTheProgram.2.2.2.1 s hm, microStep_of_indexInRange hi, hrow]
  rfl

/-- `s` with other answers of the line to come. -/
def answering (ws : List Word) (s : State) : State := { s with env := { s.env with line := ws } }

/-- `t` with the record of `s` after a poll that was answered `w`. -/
def recordingPoll (w : Word) (s t : State) : State :=
  withHistory (s.env.trace ++ [.rd .lsr (busByte w)]) (s.env.bus ++ [accessOf s false .lsr w]) t

theorem lineRead_answering {s : State} {w w' : Word} {rest : List Word} (hline : s.env.line = w :: rest) :
    lineRead .lsr (answering (w' :: rest) s) = recordingPoll w' s (lineRead .lsr s) := by
  simp [lineRead, answering, recordingPoll, withHistory, hline, lineByte, lineWord, accessOf]

theorem Ran.bus_of_quiet {s t : State} (h : Ran s [] t) : t.env.bus = s.env.bus := by
  obtain ⟨-, -, added, hadded, henv⟩ := h
  have hnil : added = [] := List.map_eq_nil_iff.mp hadded
  rw [henv, hnil]
  exact List.append_nil _

/-- The end of a read neither reads nor extends the record. -/
theorem rxDone_withHistory {s t : State} (trace : List Event) (bus : List BusAccess) (h : rxDone s = .ok t) :
    rxDone (withHistory trace bus s) = .ok (withHistory trace bus t) := by
  rw [show s = prepend s.env.trace s.env.bus (withHistory [] [] s) from withHistory_eq_prepend _ _ s, rxDone_prepend] at h
  obtain ⟨u, hu, rfl⟩ := exists_of_map_eq_ok h
  rw [withHistory_eq_prepend trace bus s, rxDone_prepend, hu]
  have htrace : u.env.trace = [] := (rxDone_ran _ u hu).trace
  have hbus : u.env.bus = [] := (rxDone_ran _ u hu).bus_of_quiet
  simp [Except.map, prepend, withHistory, htrace, hbus]

theorem txPollStep_answering {s : State} {w w' : Word} {rest : List Word} (hline : s.env.line = w :: rest)
    (hbit : holdingEmpty s.par (busByte w) = holdingEmpty s.par (busByte w')) :
    txPollStep (answering (w' :: rest) s) = recordingPoll w' s (txPollStep s) := by
  rw [← lineByte_of_line hline] at hbit
  have hread := lineRead_answering (w' := w') hline
  cases hb : holdingEmpty s.par (lineByte s) with
  | true =>
    rw [txPollStep_of_ready hb, txPollStep_of_ready (s := answering (w' :: rest) s) (hbit.symm.trans hb), hread]
    rfl
  | false =>
    rw [txPollStep_of_busy hb, txPollStep_of_busy (s := answering (w' :: rest) s) (hbit.symm.trans hb), hread]

theorem rxPollStep_answering {s t : State} {w w' : Word} {rest : List Word} (hline : s.env.line = w :: rest)
    (hbit : dataReady s.par (busByte w) = dataReady s.par (busByte w')) (h : rxPollStep s = .ok t) :
    rxPollStep (answering (w' :: rest) s) = .ok (recordingPoll w' s t) := by
  rw [← lineByte_of_line hline] at hbit
  have hread := lineRead_answering (w' := w') hline
  rcases rxPollStep_ok s t h with ⟨hd, rfl⟩ | ⟨hd, hk, hdone⟩ | ⟨hd, hk, rfl⟩
  · rw [rxPollStep_of_ready (s := answering (w' :: rest) s) (hbit.symm.trans hd), hread]
    rfl
  · rw [rxPollStep_of_timeout (s := answering (w' :: rest) s) (hbit.symm.trans hd) hk, hread]
    exact rxDone_withHistory _ _ hdone
  · rw [rxPollStep_of_waiting (s := answering (w' :: rest) s) (hbit.symm.trans hd) hk, hread]
    rfl

/-- A poll's row, with another answer that has the same tested bit. -/
theorem microRow_answering {s t : State} {w w' : Word} {rest : List Word} (hline : s.env.line = w :: rest)
    (hbit : (s.eng.st = .txPoll ∧ holdingEmpty s.par (busByte w) = holdingEmpty s.par (busByte w')) ∨
      (s.eng.st = .rxPoll ∧ dataReady s.par (busByte w) = dataReady s.par (busByte w')))
    (h : microRow s = .ok t) : microRow (answering (w' :: rest) s) = .ok (recordingPoll w' s t) := by
  rcases hbit with ⟨hst, hbit⟩ | ⟨hst, hbit⟩
  · have hst' : (answering (w' :: rest) s).eng.st = .txPoll := hst
    rw [microRow, hst] at h
    cases h
    rw [microRow, hst', ← txPollStep_answering hline hbit]
  · rw [microRow_of_rxPoll hst] at h
    rw [microRow_of_rxPoll (s := answering (w' :: rest) s) hst]
    exact rxPollStep_answering hline hbit h

/-- Settles O52: the poll's row takes the same way on both answers, and what follows the poll does not read the record. -/
theorem onlyTheTestedStatusBitMatters : Obligations.OnlyTheTestedStatusBitMatters := by
  intro s t w w' rest hm hline hbit h hf
  have hfree : s.eng.st.indexFree = true := by rcases hbit with ⟨hst, -⟩ | ⟨hst, -⟩ <;> rw [hst] <;> rfl
  obtain ⟨-, -, hrow | ⟨k, -, rfl⟩⟩ := engine_step_cases hm h
  · exact step_of_row (s := answering (w' :: rest) s) hm (indexInRange_of_indexFree hfree)
      (microRow_answering hline hbit hrow)
  · exact absurd hf k.code_ne_zero

end Sys2Proof.Machine
end

section
/-! PROOF. The record of accesses grows with the trace (20_memory.md R50 to R57): an instruction records no access, and a row
of the step table the one of its event. -/

namespace Sys2Proof.Machine

/-! ## Instructions -/

/-- The record of events and accesses is the same. -/
structure SameRecord (s t : State) : Prop where
  trace : t.env.trace = s.env.trace
  bus : t.env.bus = s.env.bus

theorem SameRecord.refl (s : State) : SameRecord s s := ⟨rfl, rfl⟩

theorem SameRecord.trans {s t u : State} (h : SameRecord s t) (g : SameRecord t u) : SameRecord s u :=
  ⟨g.trace.trans h.trace, g.bus.trans h.bus⟩

theorem Ran.sameRecord {s t : State} (h : Ran s [] t) : SameRecord s t :=
  ⟨h.trace.trans (List.append_nil _), h.bus_of_quiet⟩

theorem buildFrame_record {p : List Byte} {s t : State} (h : buildFrame p s = .ok t) : SameRecord s t := by
  obtain ⟨-, rfl⟩ := buildFrame_ok p s t h
  exact ⟨rfl, rfl⟩

theorem sendFrame_record {p : List Byte} {s t : State} (h : sendFrame p s = .ok t) : SameRecord s t := by
  obtain ⟨u, hu, rfl⟩ := exists_of_map_eq_ok h
  exact ⟨(buildFrame_record hu).trace, (buildFrame_record hu).bus⟩

theorem map_finish_record {α : Type} {x : Except FaultKind α} {v : α → RetVal} {s t : State}
    (h : x.map (fun a => finish (v a) s) = .ok t) : SameRecord s t := by
  obtain ⟨a, -, rfl⟩ := exists_of_map_eq_ok h
  exact ⟨rfl, rfl⟩

/-- The start of an invocation records nothing: its primitives are the engine's steps. -/
theorem exec_invocation_record (i : Instr) (s : State) (h : isCall i = false) :
    ∃ run, exec i s = invoke (refusalOf i s) run s ∧ ∀ s0 t, run s0 = .ok t → SameRecord s0 t := by
  cases i <;> simp only [exec, execConfigure, execReadByte, execWriteByte, execReadBytes, execWriteBytes, execChecksum,
    execBuildFrame, execExpectedAck, execCheckLength, execVerifyChecksum, execCompareAck, execResync, execAttempt,
    execSendCommand, execComputeDivisor, execReconfigure, execRunSequence, execFrameWatchdogKill, execFrameShutdownWait,
    execFramePowerOff, execCommandFrame, execAckResponse, execExpectedAckRef, execResyncPreamble, refusalOf]
  case trigger => cases h
  case reasonShutdown => cases h
  case reasonHalt => cases h
  case readBytes m =>
    refine ⟨_, rfl, fun s0 t ht => ?_⟩
    split at ht <;> cases ht <;> exact ⟨rfl, rfl⟩
  case writeBytes bs =>
    refine ⟨_, rfl, fun s0 t ht => ?_⟩
    split at ht <;> cases ht <;> exact ⟨rfl, rfl⟩
  case buildFrame p =>
    refine ⟨_, rfl, fun s0 t ht => ?_⟩
    obtain ⟨u, hu, rfl⟩ := exists_of_map_eq_ok ht
    exact ⟨(buildFrame_record hu).trace, (buildFrame_record hu).bus⟩
  case expectedAck p =>
    refine ⟨_, rfl, fun s0 t ht => ?_⟩
    obtain ⟨u, hu, rfl⟩ := exists_of_map_eq_ok ht
    obtain ⟨-, -, rfl⟩ := expectedAck_ok p s0 u hu
    exact ⟨rfl, rfl⟩
  case verifyChecksum => exact ⟨_, rfl, fun _ _ ht => map_finish_record ht⟩
  case compareAck => exact ⟨_, rfl, fun _ _ ht => map_finish_record ht⟩
  case attempt =>
    refine ⟨_, rfl, fun s0 t ht => ?_⟩
    have hbegin : SameRecord s0 (enter .attempt (beginAttempt s0)) := ⟨rfl, rfl⟩
    split at ht <;> cases ht
    · exact hbegin.trans (txDone_ran _).sameRecord
    · exact hbegin
  case sendCommand p =>
    refine ⟨_, rfl, fun s0 t ht => ?_⟩
    rw [startCommand_eq] at ht
    split at ht <;> cases ht
    exact ⟨rfl, rfl⟩
  case runSequence =>
    refine ⟨_, rfl, fun s0 t ht => ?_⟩
    have henter : SameRecord s0 (enter .runSequence s0) := ⟨rfl, rfl⟩
    exact henter.trans (beginCommand_ran _ _ _ ht).sameRecord
  case frameWatchdogKill => exact ⟨_, rfl, fun _ _ ht => sendFrame_record ht⟩
  case frameShutdownWait => exact ⟨_, rfl, fun _ _ ht => sendFrame_record ht⟩
  case framePowerOff => exact ⟨_, rfl, fun _ _ ht => sendFrame_record ht⟩
  case commandFrame p => exact ⟨_, rfl, fun _ _ ht => sendFrame_record ht⟩
  all_goals exact ⟨_, rfl, fun s0 t ht => by cases ht; exact ⟨rfl, rfl⟩⟩

/-- Whether an event stands for a bus access. -/
def Event.isAccess : Event → Bool
  | .rd _ _ => true
  | .wr _ _ => true
  | _ => false

/-- From `s` to `t` no access is made, and what the trace gains stands for none. -/
def NoAccess (s t : State) : Prop :=
  t.env.bus = s.env.bus ∧ ∃ es, t.env.trace = s.env.trace ++ es ∧ ∀ e ∈ es, e.isAccess = false

theorem SameRecord.noAccess {s t : State} (h : SameRecord s t) : NoAccess s t :=
  ⟨h.bus, [], by rw [h.trace, List.append_nil], by simp⟩

theorem SameRecord.then_noAccess {s t u : State} (h : SameRecord s t) (g : NoAccess t u) : NoAccess s u := by
  obtain ⟨hbus, es, htrace, hes⟩ := g
  exact ⟨hbus.trans h.bus, es, by rw [htrace, h.trace], hes⟩

theorem triggerCall_noAccess (r : Reason) (arg : Word) (s : State) : NoAccess s (triggerCall r arg s) := by
  rcases triggerCall_cases r arg s with ⟨-, h⟩ | ⟨-, -, h⟩ | ⟨-, -, -, h⟩ | ⟨-, -, h⟩ <;> rw [h]
  · exact ⟨rfl, [.trig r arg], rfl, by simp [Event.isAccess]⟩
  · exact ⟨rfl, [.trig r arg, .ret .notHandled], by simp, by simp [Event.isAccess]⟩
  · exact ⟨rfl, [.trig r arg, .fault .reentrantTrigger], by simp, by simp [Event.isAccess]⟩
  · exact ⟨rfl, [.trig r arg], rfl, by simp [Event.isAccess]⟩

theorem exec_noAccess {i : Instr} {s t : State} (h : exec i s = .next t) : NoAccess s t := by
  cases hc : isCall i with
  | true =>
    obtain ⟨r, arg, n, he⟩ := exec_call i s hc
    rw [he] at h
    cases h
    exact SameRecord.then_noAccess ⟨rfl, rfl⟩ (triggerCall_noAccess r arg _)
  | false =>
    obtain ⟨run, he, hrecord⟩ := exec_invocation_record i s hc
    rw [he] at h
    rcases invoke_cases (refusalOf i s) run s with
      ⟨-, hr⟩ | ⟨-, x, -, hr⟩ | ⟨-, -, -, hr⟩ | ⟨-, -, ⟨u, hu, hr⟩ | ⟨k, -, hr⟩⟩ <;> rw [hr] at h <;> cases h
    · exact SameRecord.noAccess ⟨rfl, rfl⟩
    · have hrun := hrecord _ _ hu
      exact SameRecord.noAccess ⟨hrun.trace, hrun.bus⟩
    · exact ⟨rfl, [.fault k], rfl, by simp [Event.isAccess]⟩

/-! ## Rows of the step table -/

/-- The words a row writes are bytes, zero-extended (20_memory.md R56). -/
def WritesBytes (added : List BusAccess) : Prop := ∀ a ∈ added, a.isWrite = true → a.word = busWord (busByte a.word)

/-- The line registers an event may access: `DATA` and `LSR` are read, and all but `LSR` written (20_memory.md R51). -/
def Event.registerAllowed : Event → Prop
  | .rd r _ => r = .data ∨ r = .lsr
  | .wr r _ => r ≠ .lsr
  | _ => True

theorem writesBytes_accessOf (s : State) (r : LineReg) (v : Byte) : WritesBytes [accessOf s true r (busWord v)] := by
  simp [WritesBytes, accessOf]

/-- A row whose event is no write makes no write access. -/
theorem writesBytes_of_seen {s : State} {e : Event} {added : List BusAccess}
    (hseen : added.map BusAccess.seen = eventAccesses s [e]) (he : ∀ r v, e ≠ .wr r v) : WritesBytes added := by
  intro a ha hw
  have hmem : a.seen ∈ eventAccesses s [e] := hseen ▸ List.mem_map_of_mem ha
  cases e
  case wr r v => exact absurd rfl (he r v)
  case rd r v =>
    simp only [eventAccesses, List.mem_singleton, BusAccess.seen, Prod.mk.injEq] at hmem
    rw [hw] at hmem
    cases hmem.1
  all_goals cases hmem

theorem cfgSeq_ne_lsr {p : Params} {d : Option Half} {f : Byte} {r : LineReg} {v : Option Byte} (h : (r, v) ∈ cfgSeq p d f) :
    r ≠ .lsr := by
  unfold cfgSeq at h
  rintro rfl
  cases hb : p.lineBinding <;> simp [hb] at h

/-- `CFG` makes the access of its write and no other. -/
theorem cfgStep_bus {s t : State} (h : cfgStep s = .ok t) :
    ∃ r v, t.env.bus = s.env.bus ++ [accessOf s true r (busWord v)] := by
  obtain ⟨r, v, -, ⟨-, rfl⟩ | ⟨-, d, -, ⟨-, rfl⟩ | ⟨-, hb⟩⟩⟩ := cfgStep_ok s t h
  · exact ⟨r, v, rfl⟩
  · exact ⟨r, v, rfl⟩
  · exact ⟨r, v, (beginCommand_ran _ _ _ hb).bus_of_quiet⟩

/-- `TX_WRITE` makes the access of its write and no other. -/
theorem txWriteStep_bus {s t : State} (h : txWriteStep s = .ok t) :
    ∃ b, t.env.bus = s.env.bus ++ [accessOf s true .data (busWord b)] := by
  obtain ⟨b, -, ⟨-, rfl⟩ | ⟨-, u, rfl, ⟨-, rfl⟩ | ⟨-, rfl⟩⟩⟩ := txWriteStep_ok s t h
  · exact ⟨b, (txDone_ran _).bus_of_quiet⟩
  · exact ⟨b, (txDone_ran _).bus_of_quiet⟩
  · exact ⟨b, rfl⟩

/-- What a row of the step table does to the record of accesses. -/
theorem microRow_accesses {s t : State} (h : microRow s = .ok t) (ha : s.eng.st.active = true) :
    ∃ e added, t.env.trace = s.env.trace ++ [e] ∧ t.env.bus = s.env.bus ++ added ∧
      added.map BusAccess.seen = eventAccesses s [e] ∧ WritesBytes added ∧ e.registerAllowed := by
  obtain ⟨e, hrow, hran⟩ := microRow_ran s t h ha
  obtain ⟨added, hseen, henv⟩ := hran.env
  have hbus : t.env.bus = s.env.bus ++ added := by rw [henv]
  refine ⟨e, added, hran.trace, hbus, hseen, ?_⟩
  unfold RowEvent at hrow
  unfold microRow at h
  cases hst : s.eng.st <;> simp only [hst] at h hrow
  case cfg =>
    obtain ⟨r, v, hrv, rfl⟩ := hrow
    obtain ⟨r', v', hcfg⟩ := cfgStep_bus h
    have hadded := List.append_cancel_left (hbus.symm.trans hcfg)
    exact ⟨hadded ▸ writesBytes_accessOf s r' v', cfgSeq_ne_lsr (List.mem_of_getElem? hrv)⟩
  case txWrite =>
    obtain ⟨b, -, rfl⟩ := hrow
    obtain ⟨b', hwrite⟩ := txWriteStep_bus h
    have hadded := List.append_cancel_left (hbus.symm.trans hwrite)
    exact ⟨hadded ▸ writesBytes_accessOf s .data b', by simp [Event.registerAllowed]⟩
  case diagCsum =>
    obtain ⟨bs, -, -, rfl⟩ := hrow
    exact ⟨writesBytes_of_seen hseen (by simp), trivial⟩
  all_goals
    subst hrow
    exact ⟨writesBytes_of_seen hseen (by simp), by simp [Event.registerAllowed]⟩

/-! ## The step -/

/-- The accesses from `s` to `t` are those that the events from `s` to `t` stand for, on the registers allowed. -/
def AccessesMatch (s t : State) : Prop :=
  ∃ es added, t.env.trace = s.env.trace ++ es ∧ t.env.bus = s.env.bus ++ added ∧
    added.map BusAccess.seen = eventAccesses s es ∧ WritesBytes added ∧ ∀ e ∈ es, e.registerAllowed

theorem eventAccesses_of_isAccess {es : List Event} (s : State) (h : ∀ e ∈ es, e.isAccess = false) :
    eventAccesses s es = [] := by
  induction es with
  | nil => rfl
  | cons e es ih =>
    obtain ⟨he, hes⟩ := List.forall_mem_cons.mp h
    cases e
    case rd => cases he
    case wr => cases he
    all_goals exact ih hes

theorem NoAccess.accessesMatch {s t : State} (h : NoAccess s t) : AccessesMatch s t := by
  obtain ⟨hbus, es, htrace, hes⟩ := h
  refine ⟨es, [], htrace, by rw [hbus, List.append_nil], (eventAccesses_of_isAccess s hes).symm, by simp [WritesBytes],
    fun e he => ?_⟩
  have hno := hes e he
  cases e
  case rd => cases hno
  case wr => cases hno
  all_goals trivial

theorem engine_step_accessesMatch {s t : State} (hm : engineMoves s) (h : step s = .next t) : AccessesMatch s t := by
  obtain ⟨-, ha, hrow | ⟨k, -, rfl⟩⟩ := engine_step_cases hm h
  · obtain ⟨e, added, htrace, hbus, hseen, hwrites, he⟩ := microRow_accesses hrow ha
    exact ⟨[e], added, htrace, hbus, hseen, hwrites, by simpa using he⟩
  · exact NoAccess.accessesMatch ⟨rfl, [.fault k], rfl, by simp [Event.isAccess]⟩

theorem step_accessesMatch {s t : State} (h : step s = .next t) : AccessesMatch s t := by
  rcases step_cases s with ⟨a, -, hs⟩ | ⟨c, -, -, hs⟩ | ⟨-, -, hs⟩ | ⟨hn, hc, hrun, -⟩ | ⟨-, -, -, hs⟩
  · rw [hs, attach] at h
    split at h <;> cases h
    exact NoAccess.accessesMatch (SameRecord.noAccess ⟨rfl, rfl⟩)
  · rw [hs] at h
    cases h
    exact NoAccess.accessesMatch (SameRecord.then_noAccess ⟨rfl, rfl⟩ (triggerCall_noAccess _ _ _))
  · rw [hs] at h
    cases h
    exact (SameRecord.refl s).noAccess.accessesMatch
  · exact engine_step_accessesMatch ⟨hn, hc, hrun⟩ h
  · rcases hs with ⟨-, hs⟩ | ⟨e, -, hs⟩ | ⟨i, s1, hfetch, hs⟩ <;> rw [hs] at h
    · cases h
      exact (SameRecord.refl s).noAccess.accessesMatch
    · cases h
    · obtain ⟨item, left, rest, -, -, rfl⟩ := fetch_ok s s1 i hfetch
      have hexec := exec_noAccess h
      exact NoAccess.accessesMatch (SameRecord.then_noAccess ⟨rfl, rfl⟩ hexec)

/-- Settles O50: only a row of the step table makes an access, the one its event stands for. -/
theorem busAccessesMatchTheTrace : Obligations.BusAccessesMatchTheTrace := by
  intro s t h
  obtain ⟨es, added, htrace, hbus, hseen, hwrites, hregs⟩ := step_accessesMatch h
  exact ⟨es, added, htrace, hbus, hseen, hwrites, fun r v he => hregs _ he, fun r v he => hregs _ he⟩

end Sys2Proof.Machine
end

section
/-! PROOF. The encodings (30_encoding.md R71 to R75, R80 to R83): what the decoder answers on the bytes the encoder writes, and which
wire items it accepts. -/

namespace Sys2Proof.Machine

/-! ## Operands in bytes -/

theorem halfOfBytes_halfBytes (v : Half) : halfOfBytes (lowByte v) (highByte v) = v := by
  apply BitVec.eq_of_toNat_eq
  rw [halfOfBytes, toNat_append_eq_add]
  simp only [lowByte, highByte, BitVec.toNat_setWidth, BitVec.toNat_ushiftRight, Nat.shiftRight_eq_div_pow]
  omega

theorem wordOfBytes_wordBytes (v : Word) :
    wordOfBytes (v.setWidth 8) ((v >>> 8).setWidth 8) ((v >>> 16).setWidth 8) ((v >>> 24).setWidth 8) = v := by
  apply BitVec.eq_of_toNat_eq
  simp only [wordOfBytes, toNat_append_eq_add, BitVec.toNat_setWidth, BitVec.toNat_ushiftRight,
    Nat.shiftRight_eq_div_pow]
  omega

theorem reasonOfByte_byteOfReason {r : Reason} (h : r.wf = true) : reasonOfByte (byteOfReason r) = r := by
  cases r with
  | shutdown => rfl
  | halt => rfl
  | other code =>
    simp only [Reason.wf, Bool.and_eq_true, decide_eq_true_eq] at h
    obtain ⟨⟨hlt, h1⟩, h2⟩ := h
    have hcode : (BitVec.ofNat 8 code).toNat = code := by rw [BitVec.toNat_ofNat]; omega
    have hne (n : Byte) (hn : code ≠ n.toNat) : BitVec.ofNat 8 code ≠ n := fun he => hn (by rw [← he, hcode])
    rw [byteOfReason, reasonOfByte, if_neg (hne 0x01 h1), if_neg (hne 0x02 h2), hcode]

/-- A list after its count byte is read back, and the bytes after it are left (30_encoding.md R82). -/
theorem takeList_count {l : List Byte} (h : l.length ≤ 255) (rest : List Byte) :
    takeList (BitVec.ofNat 8 l.length :: (l ++ rest)) = some (l, rest) := by
  have hn : (BitVec.ofNat 8 l.length).toNat = l.length := by rw [BitVec.toNat_ofNat]; omega
  rw [takeList, hn, if_pos (by simp), List.take_left, List.drop_left]

theorem takeList_short {n : Byte} {bs : List Byte} (h : bs.length < n.toNat) : takeList (n :: bs) = none := by
  rw [takeList, if_neg (Nat.not_le.mpr h)]

/-! ## Invocations -/

section Lists

variable {label : Byte} {mk : List Byte → Instr} (hlabel : ∀ bs, decodeOperands label bs = decodeList label mk bs)
include hlabel

theorem decodeInvocation_list {l : List Byte} (h : l.length ≤ 255) (rest : List Byte) :
    decodeInvocation (label :: BitVec.ofNat 8 l.length :: (l ++ rest)) = .ok (mk l, rest) := by
  rw [decodeInvocation, hlabel, decodeList, takeList_count h]

theorem decodeInvocation_short_list {n : Byte} {bs : List Byte} (h : bs.length < n.toNat) :
    decodeInvocation (label :: n :: bs) = .error (.truncated label) := by
  rw [decodeInvocation, hlabel, decodeList, takeList_short h]

/-- The item of an operation with a list operand is read back. -/
theorem decodeInvocation_listBytes {l : List Byte} (h : countable l = true) :
    decodeInvocation (label :: listBytes l) = .ok (mk l, []) := by
  simpa [listBytes] using decodeInvocation_list hlabel (of_decide_eq_true h) []

end Lists

theorem decodeInvocation_configure (d : Half) (f : Byte) (rest : List Byte) :
    decodeInvocation (0x01 :: (halfBytes d ++ f :: rest)) = .ok (.configure d f, rest) :=
  calc decodeInvocation (0x01 :: (halfBytes d ++ f :: rest))
    _ = .ok (.configure (halfOfBytes (lowByte d) (highByte d)) f, rest) := rfl
    _ = .ok (.configure d f, rest) := by rw [halfOfBytes_halfBytes]

theorem decodeInvocation_trigger (r : Byte) (arg : Word) (rest : List Byte) :
    decodeInvocation (0x20 :: r :: (wordBytes arg ++ rest)) = .ok (.trigger (reasonOfByte r) arg, rest) :=
  congrArg (fun v => Except.ok (Instr.trigger (reasonOfByte r) v, rest)) (wordOfBytes_wordBytes arg)

theorem decodeInvocation_computeDivisor (t : Word) (rest : List Byte) :
    decodeInvocation (0x21 :: (wordBytes t ++ rest)) = .ok (.computeDivisor t, rest) :=
  congrArg (fun v => Except.ok (Instr.computeDivisor v, rest)) (wordOfBytes_wordBytes t)

/-- Settles O2: each label names its row, and each operand is read back from the bytes it is written in. -/
theorem invocationBytesDecodeInOperandOrder : Obligations.InvocationBytesDecodeInOperandOrder := by
  intro rest
  refine ⟨fun d f => decodeInvocation_configure d f rest, fun _ => rfl, fun _ => rfl, fun l hl => ?_, fun arg => ?_,
    rfl, rfl, rfl, rfl, rfl, rfl, rfl, rfl⟩
  · exact ⟨decodeInvocation_list (fun _ => rfl) hl rest, decodeInvocation_list (fun _ => rfl) hl rest,
      decodeInvocation_list (fun _ => rfl) hl rest, decodeInvocation_list (fun _ => rfl) hl rest,
      decodeInvocation_list (fun _ => rfl) hl rest⟩
  · refine ⟨decodeInvocation_trigger 0x01 arg rest, decodeInvocation_trigger 0x02 arg rest, fun v h1 h2 => ?_,
      decodeInvocation_computeDivisor arg rest⟩
    have hreason : reasonOfByte v = .other v.toNat := by rw [reasonOfByte, if_neg h1, if_neg h2]
    exact hreason ▸ decodeInvocation_trigger v arg rest

/-! ## Frames -/

/-- A frame's bytes sum to 0: the checksum completes the payload's sum (30_encoding.md R71). -/
theorem sum8_frameOf (p : List Byte) : sum8 (frameOf p) = 0 := by
  rw [frameOf, sum8_append, sum8_cons, sum8_nil, checksumOf, neg8_eq_neg, BitVec.ofNat_eq_ofNat, BitVec.add_zero,
    BitVec.add_right_neg]

theorem frameOf_inj {p q : List Byte} : frameOf p = frameOf q ↔ p = q :=
  ⟨fun h => (List.append_inj' h rfl).1, fun h => h ▸ rfl⟩

theorem frameOf_dropLast {bs : List Byte} (hne : bs ≠ []) (hsum : sum8 bs = 0) : frameOf bs.dropLast = bs := by
  have hbs : bs.dropLast ++ [bs.getLast hne] = bs := List.dropLast_append_getLast hne
  have hlast : sum8 bs.dropLast + bs.getLast hne = 0 := by
    rw [← hsum, ← congrArg sum8 hbs, sum8_append, sum8_cons, sum8_nil, BitVec.ofNat_eq_ofNat, BitVec.add_zero]
  have hcheck : checksumOf bs.dropLast = bs.getLast hne := by
    rw [checksumOf, neg8_eq_neg]
    exact neg_eq_of_add_eq_zero_right hlast
  rw [frameOf, hcheck, hbs]

/-- The frames are the byte strings, not empty, that sum to 0 (30_encoding.md R71). -/
theorem exists_frameOf_iff (bs : List Byte) : (∃ p, bs = frameOf p) ↔ bs ≠ [] ∧ sum8 bs = 0 :=
  ⟨fun ⟨p, h⟩ => h ▸ ⟨frameOf_ne_nil p, sum8_frameOf p⟩, fun ⟨hne, hsum⟩ => ⟨_, (frameOf_dropLast hne hsum).symm⟩⟩

/-- The row of the frame of `p`: the first fixed command with this payload, or the general frame (30_encoding.md R75; log entry
33). -/
def frameRow (par : Params) (p : List Byte) : Instr :=
  if p = par.payload.watchdogKill then .frameWatchdogKill
  else if p = par.payload.shutdownWait then .frameShutdownWait
  else if p = par.payload.powerOff then .framePowerOff
  else .commandFrame p

theorem decodeFrame_frameOf (par : Params) (p : List Byte) : decodeFrame par (frameOf p) = .ok (frameRow par p) := by
  have hlast : (frameOf p).dropLast = p := by rw [frameOf, List.dropLast_concat]
  simp only [decodeFrame, frameOf_ne_nil, frameOf_inj, sum8_frameOf, hlast, frameRow, if_false, if_true]
  split_ifs <;> rfl

theorem exists_frameOf_of_decodeFrame {par : Params} {bs : List Byte} {i : Instr} (h : decodeFrame par bs = .ok i) :
    ∃ p, bs = frameOf p := by
  unfold decodeFrame at h
  split_ifs at h with hne hk hw ho hsum
  · exact ⟨_, hk⟩
  · exact ⟨_, hw⟩
  · exact ⟨_, ho⟩
  · exact (exists_frameOf_iff bs).mpr ⟨hne, hsum⟩

theorem decodeFrame_ok_iff (par : Params) (bs : List Byte) (i : Instr) :
    decodeFrame par bs = .ok i ↔ ∃ p, bs = frameOf p ∧ i = frameRow par p := by
  constructor
  · intro h
    obtain ⟨p, rfl⟩ := exists_frameOf_of_decodeFrame h
    rw [decodeFrame_frameOf] at h
    exact ⟨p, rfl, (Except.ok.inj h).symm⟩
  · rintro ⟨p, rfl, rfl⟩
    exact decodeFrame_frameOf par p

/-- What the row of a frame says of its payload. -/
theorem frameRow_cases (par : Params) (p : List Byte) :
    (frameRow par p = .frameWatchdogKill ∧ p = par.payload.watchdogKill) ∨
    (frameRow par p = .frameShutdownWait ∧ p = par.payload.shutdownWait) ∨
    (frameRow par p = .framePowerOff ∧ p = par.payload.powerOff) ∨
    (frameRow par p = .commandFrame p ∧ ∀ c, p ≠ par.payload.get c) := by
  unfold frameRow
  split_ifs with hk hw ho
  · exact .inl ⟨rfl, hk⟩
  · exact .inr (.inl ⟨rfl, hw⟩)
  · exact .inr (.inr (.inl ⟨rfl, ho⟩))
  · exact .inr (.inr (.inr ⟨rfl, fun c => by cases c <;> assumption⟩))

/-! ## The other wire items -/

theorem decodeResponse_ok_iff (bs : List Byte) (i : Instr) :
    decodeResponse bs = .ok i ↔
      ∃ a c tail, bs = 0x01 :: a :: 0x00 :: c :: tail ∧ sum8 [0x01, a, 0x00, c] = 0 ∧ i = .ackResponse a tail := by
  constructor
  · intro h
    unfold decodeResponse at h
    split at h
    · cases h
    · split_ifs at h with hform
      obtain ⟨rfl, rfl, hsum⟩ := hform
      exact ⟨_, _, _, rfl, hsum, (Except.ok.inj h).symm⟩
    · cases h
  · rintro ⟨a, c, tail, rfl, hsum, rfl⟩
    exact if_pos ⟨rfl, rfl, hsum⟩

theorem decodeReference_ok_iff (bs : List Byte) (i : Instr) :
    decodeReference bs = .ok i ↔ ∃ a, bs = [0x01, a, 0x00] ∧ i = .expectedAckRef a := by
  constructor
  · intro h
    unfold decodeReference at h
    split at h
    · cases h
    · split_ifs at h with hform
      obtain ⟨rfl, rfl⟩ := hform
      exact ⟨_, rfl, (Except.ok.inj h).symm⟩
    · cases h
  · rintro ⟨a, rfl, rfl⟩
    rfl

theorem decodePreamble_ok_iff (par : Params) (bs : List Byte) (i : Instr) :
    decodePreamble par bs = .ok i ↔ bs = preambleOf par ∧ bs ≠ [] ∧ i = .resyncPreamble := by
  unfold decodePreamble
  split_ifs with hne hp
  · exact ⟨fun h => (by cases h), fun ⟨_, h, _⟩ => absurd hne h⟩
  · exact ⟨fun h => ⟨hp, hne, (Except.ok.inj h).symm⟩, fun ⟨_, _, h⟩ => h ▸ rfl⟩
  · exact ⟨fun h => (by cases h), fun ⟨h, _⟩ => absurd h hp⟩

theorem whole_eq_ok_iff (r : Except DecodeError Instr) (i : Instr) : whole r = .ok (i, []) ↔ r = .ok i := by
  cases r <;> simp [whole]

/-- Settles O4: each format's decoder accepts exactly the bytes of its shape. -/
theorem wireItemsDecodeExactlyWhenWellFramed : Obligations.WireItemsDecodeExactlyWhenWellFramed := by
  intro par
  refine ⟨fun bs => ?_, fun bs i h => ?_, fun bs i => ?_, fun bs i => ?_, fun bs i => ?_⟩
  · simp only [decodeItem, whole_eq_ok_iff, decodeFrame_ok_iff, ← exists_frameOf_iff]
    exact ⟨fun ⟨_, p, h, _⟩ => ⟨p, h⟩, fun ⟨p, h⟩ => ⟨_, p, h, rfl⟩⟩
  · obtain ⟨p, rfl, rfl⟩ := (decodeFrame_ok_iff par bs i).mp ((whole_eq_ok_iff _ _).mp h)
    rcases frameRow_cases par p with ⟨hrow, rfl⟩ | ⟨hrow, rfl⟩ | ⟨hrow, rfl⟩ | ⟨hrow, hne⟩
    · exact .inl ⟨hrow, rfl⟩
    · exact .inr (.inl ⟨hrow, rfl⟩)
    · exact .inr (.inr (.inl ⟨hrow, rfl⟩))
    · exact .inr (.inr (.inr ⟨p, hrow, rfl, hne⟩))
  · exact (whole_eq_ok_iff _ _).trans (decodeResponse_ok_iff bs i)
  · exact (whole_eq_ok_iff _ _).trans (decodeReference_ok_iff bs i)
  · exact (whole_eq_ok_iff _ _).trans (decodePreamble_ok_iff par bs i)

/-! ## Every row -/

theorem sum8_responseHead (a : Byte) : sum8 [0x01, a, 0x00, checksumOf (ackOf a)] = 0 := sum8_frameOf (ackOf a)

/-- A frame item is read as the row of its payload. -/
theorem decodeItem_frame (par : Params) (p : List Byte) :
    decodeItem par ⟨.commandFrame, frameOf p⟩ = .ok (frameRow par p, []) := by
  rw [decodeItem, whole_eq_ok_iff, decodeFrame_frameOf]

/-- Settles O1, row by row. -/
theorem decodeOfEncodeReturnsTheInstruction : Obligations.DecodeOfEncodeReturnsTheInstruction := by
  intro par i h
  cases i with
  | configure d f => exact decodeInvocation_configure d f []
  | readByte => rfl
  | writeByte b => rfl
  | readBytes m => rfl
  | writeBytes bs => exact decodeInvocation_listBytes (label := 0x05) (mk := .writeBytes) (fun _ => rfl) h
  | checksum bs => exact decodeInvocation_listBytes (label := 0x10) (mk := .checksum) (fun _ => rfl) h
  | buildFrame p => exact decodeInvocation_listBytes (label := 0x11) (mk := .buildFrame) (fun _ => rfl) h
  | expectedAck p => exact decodeInvocation_listBytes (label := 0x12) (mk := .expectedAck) (fun _ => rfl) h
  | checkLength => rfl
  | verifyChecksum => rfl
  | compareAck => rfl
  | resync => rfl
  | attempt => rfl
  | sendCommand p => exact decodeInvocation_listBytes (label := 0x18) (mk := .sendCommand) (fun _ => rfl) h
  | trigger r arg =>
    have hitem := decodeInvocation_trigger (byteOfReason r) arg []
    rw [reasonOfByte_byteOfReason h] at hitem
    exact hitem
  | computeDivisor t => exact decodeInvocation_computeDivisor t []
  | reconfigure => rfl
  | runSequence => rfl
  | frameWatchdogKill => simp [encode, decodeItem_frame, frameRow]
  | frameShutdownWait =>
    have hne := of_decide_eq_true h
    simp [encode, decodeItem_frame, frameRow, hne]
  | framePowerOff =>
    simp only [Instr.wf, Bool.and_eq_true, decide_eq_true_eq] at h
    simp [encode, decodeItem_frame, frameRow, h]
  | commandFrame p =>
    simp only [Instr.wf, notFixedPayload, Bool.and_eq_true, decide_eq_true_eq] at h
    simp [encode, decodeItem_frame, frameRow, h]
  | ackResponse a tail =>
    exact (whole_eq_ok_iff _ _).mpr ((decodeResponse_ok_iff _ _).mpr ⟨a, _, tail, rfl, sum8_responseHead a, rfl⟩)
  | expectedAckRef a => exact (whole_eq_ok_iff _ _).mpr ((decodeReference_ok_iff _ _).mpr ⟨a, rfl, rfl⟩)
  | resyncPreamble =>
    have hne := Laws.EncodingNonempty.resyncPreamble par h
    exact (whole_eq_ok_iff _ _).mpr ((decodePreamble_ok_iff par _ _).mpr ⟨rfl, hne, rfl⟩)
  | reasonShutdown => rfl
  | reasonHalt => rfl

/-- Settles O5: the frames are those of their payloads, and the invocations and the response are read from their bytes. -/
theorem wordsOfTheSpecDecode : Obligations.WordsOfTheSpecDecode := by
  refine ⟨fun par hp => ?_, fun par => ⟨rfl, rfl, rfl, rfl⟩⟩
  have hframe (p : List Byte) := decodeItem_frame par p
  simp only [frameRow, hp] at hframe
  exact ⟨hframe [0x01, 0x35, 0x00], hframe [0x00, 0x0C], hframe [0x00, 0x06]⟩

/-- Settles O6. -/
theorem exampleLinesReadAndEventsWrite : Obligations.ExampleLinesReadAndEventsWrite := by
  refine ⟨?_, ?_, ?_, ?_, ?_, ?_, ?_, ?_⟩ <;> decide

end Sys2Proof.Machine
end

section
/-! PROOF. What is stopped or run before an operation starts: undecodable items, bad operands, invocations outside `IDLE`
(30_encoding.md R81, R83), and the reason rows (R82). -/

namespace Sys2Proof.Machine

/-! ## Unassigned labels -/

theorem decodeOperands_unassigned {label : Byte} (h : unassignedLabel label) (bs : List Byte) :
    decodeOperands label bs = .error (.unassignedLabel label) := by
  unfold unassignedLabel at h
  unfold decodeOperands
  split
  case h_19 => rfl
  all_goals omega

/-! ## Taking an item of the program -/

/-- Nothing stands before the program's next item: no request, no call that never returns, no engine step. -/
structure TakesItem (s : State) : Prop where
  noRequest : noRequest s
  notStuck : s.env.ctx ≠ .stuck
  resting : engineRunning s = false

theorem TakesItem.step_of_error {s : State} {item : ProgItem} {rest : List ProgItem} {e : DecodeError} (h : TakesItem s)
    (hp : s.env.program = item :: rest) (hd : decodeItem s.par item = .error e) :
    step s = .refused (.undecodable e) := by
  obtain ⟨⟨ha, hport⟩, hc, hr⟩ := h
  have hfetch : fetch s = some (.error e) := by simp [fetch, hp, hd]
  simp [step, ha, hport, hc, hr, hfetch]

theorem TakesItem.step_of_ok {s : State} {item : ProgItem} {rest : List ProgItem} {i : Instr} {left : List Byte}
    (h : TakesItem s) (hp : s.env.program = item :: rest) (hd : decodeItem s.par item = .ok (i, left)) :
    step s = exec i { s with env := { s.env with program := putBack item left rest } } := by
  obtain ⟨⟨ha, hport⟩, hc, hr⟩ := h
  have hfetch : fetch s = some (.ok (i, { s with env := { s.env with program := putBack item left rest } })) := by
    simp [fetch, hp, hd]
  simp [step, ha, hport, hc, hr, hfetch]

/-- Settles O7: the step takes the front item, and what is left of it is put back. -/
theorem stepRunsTheDecodedInstruction : Obligations.StepRunsTheDecodedInstruction :=
  fun _ _ _ _ _ hn hc hr hp hd => TakesItem.step_of_ok ⟨hn, hc, hr⟩ hp hd

/-! ## Bad operands -/

theorem badPayloadLen_of_short {par : Params} {p : List Byte} (h : p.length < 2) : badPayloadLen par p = true := by
  simp [badPayloadLen, h]

theorem badPayloadLen_of_long {par : Params} {p : List Byte} (h : par.maxPayloadLen < p.length) :
    badPayloadLen par p = true := by
  simp [badPayloadLen, h]

theorem exec_expectedAck_bad {s : State} {p : List Byte} (hm : mayInvoke s) (hp : badPayloadLen s.par p = true) :
    exec (.expectedAck p) s = .next (faulted .badPayload s) := by
  rw [exec, execExpectedAck]
  refine invoke_error hm ?_
  rw [expectedAck, if_pos hp]
  rfl

theorem exec_sendCommand_bad {s : State} {p : List Byte} (hm : mayInvoke s) (hp : badPayloadLen s.par p = true) :
    exec (.sendCommand p) s = .next (faulted .badPayload s) := by
  rw [exec, execSendCommand]
  refine invoke_error hm ?_
  rw [startCommand_eq]
  exact if_pos hp

/-- Both operations that test for 2 to `MAX_PAYLOAD_LEN` bytes fault on another length (42_frame_protocol.md R122, R128). -/
theorem endsInFault_of_badPayloadLen {s : State} {p : List Byte} (hm : mayInvoke s) (hp : badPayloadLen s.par p = true) :
    endsInFault (.expectedAck p) .badPayload s ∧ endsInFault (.sendCommand p) .badPayload s :=
  ⟨⟨_, _, exec_expectedAck_bad hm hp⟩, ⟨_, _, exec_sendCommand_bad hm hp⟩⟩

theorem exec_readBytes_refused {s : State} {m : Byte} (hst : s.eng.st = .idle) (hm : s.par.responseCapacity < m.toNat) :
    exec (.readBytes m) s = .refused .countAboveCapacity := by
  rw [exec, execReadBytes, if_pos hm, invoke, if_neg (by simp [hst])]

/-- Settles O3: the decoder refuses, the length tests fault, the count is refused. -/
theorem unassignedLabelsAndBadOperandsAreStopped : Obligations.UnassignedLabelsAndBadOperandsAreStopped := by
  refine ⟨fun label bs h => decodeOperands_unassigned h bs,
    fun s item rest e hn hc hr hp hd => TakesItem.step_of_error ⟨hn, hc, hr⟩ hp hd, fun label n bs hlabel hlen => ?_,
    fun s p hm hl => ⟨⟨_, _, exec_buildFrame_long hm hl⟩, endsInFault_of_badPayloadLen hm (badPayloadLen_of_long hl)⟩,
    fun s p hm hl => endsInFault_of_badPayloadLen hm (badPayloadLen_of_short hl),
    fun s m hst hm => exec_readBytes_refused hst hm⟩
  simp only [List.mem_cons, List.not_mem_nil, or_false] at hlabel
  rcases hlabel with rfl | rfl | rfl | rfl | rfl
  · exact decodeInvocation_short_list (mk := .writeBytes) (fun _ => rfl) hlen
  · exact decodeInvocation_short_list (mk := .checksum) (fun _ => rfl) hlen
  · exact decodeInvocation_short_list (mk := .buildFrame) (fun _ => rfl) hlen
  · exact decodeInvocation_short_list (mk := .expectedAck) (fun _ => rfl) hlen
  · exact decodeInvocation_short_list (mk := .sendCommand) (fun _ => rfl) hlen

/-! ## Outside `IDLE` -/

theorem isCall_eq_false {i : Instr} (ht : ∀ r arg, i ≠ .trigger r arg) (hs : i ≠ .reasonShutdown) (hh : i ≠ .reasonHalt) :
    isCall i = false := by
  unfold isCall
  split
  · exact absurd rfl (ht _ _)
  · exact absurd rfl hs
  · exact absurd rfl hh
  · rfl

theorem invoke_of_not_idle {refusal : Option Refusal} {run : State → Except FaultKind State} {s : State}
    (hst : s.eng.st ≠ .idle) : invoke refusal run s = .refused .notIdle := by
  unfold invoke
  exact if_pos hst

/-- Settles O44: every instruction but a call is a harness invocation, which tests for `IDLE` first. -/
theorem invocationsOutsideIdleAreRefused : Obligations.InvocationsOutsideIdleAreRefused := by
  intro s i ht hs hh hst
  obtain ⟨run, hexec⟩ := exec_invocation i s (isCall_eq_false ht hs hh)
  rw [hexec, invoke_of_not_idle hst]

/-! ## The reason rows -/

/-- A call that counts as one with a free argument, and is accepted. -/
theorem callWithFreeArgument_of_mayInvoke {s : State} {reason : Reason} (hm : mayInvoke s) (ha : accepted reason = true) :
    callWithFreeArgument reason s = { s with
      eng := { s.eng with divisor := some (divisorOf s.par s.eng.tickRate), cfgJ := 0, st := .cfg }
      env := { s.env with
        trace := s.env.trace ++ [.trig reason (Config.hostArgument s.env.hostCalls)], ctx := .engine, ret := .noValue
        hostCalls := s.env.hostCalls + 1 } } := by
  obtain ⟨hst, hf⟩ := hm
  simp [callWithFreeArgument, triggerCall, hf, ha, hst, accept, emit]

/-- Settles O43: a reason row is the call with its reason, and the call of an idle engine is accepted. -/
theorem reasonRowsRaiseTheNotification : Obligations.ReasonRowsRaiseTheNotification := by
  refine fun s => ⟨⟨_, rfl⟩, ⟨_, rfl⟩, fun hm i hi => ?_⟩
  rcases hi with rfl | rfl
  · exact ⟨_, _, congrArg Host.Outcome.next (callWithFreeArgument_of_mayInvoke (reason := .shutdown) hm rfl)⟩
  · exact ⟨_, _, congrArg Host.Outcome.next (callWithFreeArgument_of_mayInvoke (reason := .halt) hm rfl)⟩

end Sys2Proof.Machine
end

section
/-! PROOF. The rows that only send: a frame row, the preamble row and the reference row (30_encoding.md R71, R73 to R75), and
`RESYNC` (42_frame_protocol.md R126). -/

namespace Sys2Proof.Machine

/-! ## A transmission and nothing more -/

/-- A transmission that has started runs to its end. -/
theorem ends_of_transmit {s : State} {bs : List Byte} {ev : List Event} {rest : List Word} (hl : Live s)
    (hst : s.eng.st = .txPoll) (htxi : s.eng.txi = 0) (hc : s.env.ctx = .transmit) (hsend : Sends s bs) (hne : bs ≠ [])
    (h : bigWriteBytes s.par bs s.env.line = some (ev, rest)) :
    ∃ t, Ends s ev { s.eng with txi := bs.length, st := .idle } rest .noValue t := by
  obtain ⟨u, hlead, hu, rfl⟩ := leadsTo_of_bigWriteBytes h hne (sent := []) hl rfl hst rfl (by simp [hc]) htxi hsend
  have hdone : txDone u = finish .noValue u := by rw [txDone, hlead.during.ctx, hc]
  have hends := hlead.ends (congrArg Except.ok hdone)
  rw [hu] at hends
  exact ⟨_, hends⟩

/-! ## The frame rows -/

/-- `s` with the frame of `p` built and its first poll next. -/
def frameStarted (p : List Byte) (s : State) : State :=
  { s with
    eng := { s.eng with
      frame := overwriteFrame p s.eng.frame, frameLen := p.length + 1, txb := .frame, txi := 0, st := .txPoll }
    env := { s.env with ctx := .transmit, ret := .noValue } }

theorem sendFrame_ok {p : List Byte} {s : State} (hl : p.length ≤ s.par.maxPayloadLen) :
    sendFrame p { s with env := { s.env with ret := .noValue } } = .ok (frameStarted p s) := by
  rw [sendFrame, buildFrame, if_neg (Nat.not_lt.mpr hl)]
  rfl

theorem sendFrame_error {p : List Byte} {s : State} (hl : s.par.maxPayloadLen < p.length) :
    sendFrame p s = .error .badPayload := by
  rw [sendFrame, buildFrame, if_pos hl]
  rfl

theorem sends_frameStarted (p : List Byte) (s : State) : Sends (frameStarted p s) (frameOf p) :=
  sends_frame rfl rfl (frameOf_length p).symm (by rw [frameOf_length]; exact overwriteFrame_take p _)

/-- An instruction that starts with its frame built sends it. -/
theorem sendsItsFrame_of_exec {i : Instr} {p : List Byte} {s : State} (hm : mayInvoke s)
    (hexec : exec i s = .next (frameStarted p s)) : sendsItsFrame i p s := by
  refine ⟨hexec, fun hn ev rest hbig => ?_⟩
  obtain ⟨t, ht⟩ := ends_of_transmit (s := frameStarted p s) ⟨hn, by simp [frameStarted], hm.2⟩ rfl rfl rfl
    (sends_frameStarted p s) (frameOf_ne_nil p) hbig
  have heng : { (frameStarted p s).eng with txi := (frameOf p).length, st := .idle } = { s.eng with
      frame := overwriteFrame p s.eng.frame, frameLen := p.length + 1, txb := .frame, txi := p.length + 1 } := by
    rw [← hm.1, frameOf_length]
    rfl
  exact ⟨t, heng ▸ ht.completes (ev0 := []) hexec (.of_quiet rfl rfl rfl)⟩

/-- Settles O40: each row builds the frame of its payload and transmits it; the build faults on a payload too long. -/
theorem frameRowsSendTheirFrames : Obligations.FrameRowsSendTheirFrames :=
  ⟨fun _ hm hl => sendsItsFrame_of_exec hm (invoke_ok hm (sendFrame_ok hl)),
    fun _ hm hl => sendsItsFrame_of_exec hm (invoke_ok hm (sendFrame_ok hl)),
    fun _ hm hl => sendsItsFrame_of_exec hm (invoke_ok hm (sendFrame_ok hl)),
    fun _ _ hm hl => sendsItsFrame_of_exec hm (invoke_ok hm (sendFrame_ok hl)),
    fun _ _ hm hl => ⟨_, _, invoke_error hm (sendFrame_error hl)⟩⟩

/-! ## The reference row and the preamble row -/

theorem exec_expectedAckRef {s : State} (a : Byte) (hm : mayInvoke s) :
    exec (.expectedAckRef a) s = .next (returned .noValue
      { s with eng := { s.eng with ack := [some 0x01, some a, some 0x00] } }) := by
  have hend := finish_of_idle (s := { s with
    eng := { s.eng with ack := (ackOf a).map some }, env := { s.env with ret := .noValue } }) .noValue hm.1
  rw [exec, execExpectedAckRef]
  exact invoke_ok hm (congrArg Except.ok hend)

/-- `s` at the first poll of the flush bytes, in the context `c`. -/
def flushStarted (c : Ctx) (s : State) : State :=
  { s with
    eng := { s.eng with txb := .flush, txi := 0, st := .txPoll }
    env := { s.env with ctx := c, ret := .noValue } }

theorem flush_ne_nil {p : Params} (h : 1 ≤ p.responseCapacity) : List.replicate p.responseCapacity p.flushByte ≠ [] :=
  List.ne_nil_of_length_pos (by rw [List.length_replicate]; exact h)

/-- Settles O42: the reference is written, and the preamble is transmitted. -/
theorem referenceAndPreambleRowsComplete : Obligations.ReferenceAndPreambleRowsComplete := by
  refine ⟨fun s a hm => exec_expectedAckRef a hm, fun s hm => ?_⟩
  have hexec : execResyncPreamble s = .next (flushStarted .transmit s) := invoke_of_mayInvoke _ s hm
  refine ⟨hexec, fun hn hcap ev rest hbig => ?_⟩
  obtain ⟨t, ht⟩ := ends_of_transmit (s := flushStarted .transmit s) ⟨hn, by simp [flushStarted], hm.2⟩ rfl rfl rfl
    (sends_flush rfl rfl) (flush_ne_nil hcap) hbig
  have heng : { (flushStarted .transmit s).eng with
      txi := (List.replicate s.par.responseCapacity s.par.flushByte).length, st := .idle } =
      { s.eng with txb := .flush, txi := s.par.responseCapacity } := by
    rw [← hm.1, List.length_replicate]
    rfl
  exact ⟨t, heng ▸ ht.completes (ev0 := []) hexec (.of_quiet rfl rfl rfl)⟩

/-! ## `RESYNC` -/

/-- A harness `RESYNC` from the flush's first poll to the first poll of the drain read. -/
theorem reaches_drain {s : State} {ev : List Event} {rest : List Word} (hl : Live (flushStarted .resync s))
    (hcap : 1 ≤ s.par.responseCapacity)
    (h : bigWriteBytes s.par (List.replicate s.par.responseCapacity s.par.flushByte) s.env.line = some (ev, rest)) :
    ∃ v, Reaches (flushStarted .resync s) (ev ++ [.sleep s.par.flushSettle]) v ∧
      v.eng = { s.eng with
        txb := .flush, txi := s.par.responseCapacity, rxp := .drain
        rbuf := List.replicate s.par.responseCapacity none, rcount := 0, k := 1, st := .rxPoll } ∧
      v.env.line = rest := by
  obtain ⟨u, hlead, hu, hline⟩ := leadsTo_of_bigWriteBytes h (flush_ne_nil hcap) (s := flushStarted .resync s) (sent := [])
    hl rfl rfl rfl (by simp [flushStarted]) rfl (sends_flush rfl rfl)
  have hctx : u.env.ctx = .resync := hlead.during.ctx
  have hpar : u.par = s.par := hlead.during.ran.par
  have hdone : txDone u = goto .settleFlush u := by rw [txDone, hctx, hu]; rfl
  have hsettle := hlead.reaches (congrArg Except.ok hdone) (goto_during _ u)
  have hdelay : Reaches (goto .settleFlush u) [.sleep s.par.flushSettle] (settleFlushStep (goto .settleFlush u)) :=
    .of_row (hl.during hsettle.during) rfl rfl rfl
      (hpar ▸ (sleep_during u.par.flushSettle _).then_quiet (.of_registers rfl rfl rfl rfl))
  refine ⟨_, hsettle.trans hdelay, ?_, hline⟩
  simp [settleFlushStep, hu, hpar, flushStarted]

/-- A harness `RESYNC` that has started runs to its end: the flush, the settle delay, the drain read. -/
theorem ends_of_bigResync {s : State} {bs : List Byte} {ev : List Event} {rest : List Word}
    (hl : Live (flushStarted .resync s)) (hcap : 1 ≤ s.par.responseCapacity) (hlimit : 1 ≤ s.par.readPollLimit)
    (h : bigResync s.par s.env.line = some (bs, ev, rest)) :
    ∃ k t, Ends (flushStarted .resync s) ev { s.eng with
      txb := .flush, txi := s.par.responseCapacity, rxp := .drain
      rbuf := bufferOf s.par.responseCapacity bs, rcount := bs.length, k := k, st := .idle } rest .noValue t := by
  unfold bigResync at h
  split at h
  · cases h
  rename_i ev1 rest1 hflush
  split at h
  · cases h
  rename_i bs' ev2 rest2 hdrain
  cases h
  obtain ⟨v, hreach, hv, rfl⟩ := reaches_drain hl hcap hflush
  have hctx : v.env.ctx = .resync := hreach.during.ctx
  have hpar : v.par = s.par := hreach.during.ran.par
  have hmax : rxMax v = s.par.responseCapacity := by rw [rxMax, hctx, hpar]
  obtain ⟨w, k, st, hlast, hw, rfl⟩ := leadsTo_of_bigReadBytes hdrain hcap hlimit (s := v) (got := [])
    (hl.during hreach.during) hpar (by rw [hv]) (by rw [hv]) rfl (by rw [hctx]; simp)
    ⟨by rw [hv, hpar]; rfl, by rw [hv]; rfl⟩ (by simpa using hmax) (Nat.le_of_eq hmax)
  have hends := (hreach.leadsTo hlast).ends (v := .noValue) (by rw [rxDone, hlast.during.ctx, hctx])
  rw [hw, afterRead, hv, hpar] at hends
  exact ⟨k, _, by simpa using hends⟩

/-- Settles O27: the start is the flush's first poll, and the run ends with the drain read. -/
theorem resyncFlushesAndDrains : Obligations.ResyncFlushesAndDrains := by
  intro s hm
  have hexec : execResync s = .next (flushStarted .resync s) := invoke_of_mayInvoke _ s hm
  refine ⟨hexec, fun hn hcap hlimit bs ev rest hbig => ?_⟩
  obtain ⟨k, t, ht⟩ := ends_of_bigResync ⟨hn, by simp [flushStarted], hm.2⟩ hcap hlimit hbig
  obtain ⟨hcomp, hran⟩ := ht.completes (i := .resync) (s := s) (ev0 := []) hexec (.of_quiet rfl rfl rfl)
  rw [← hm.1] at hran
  exact ⟨k, t, hcomp, hran⟩

end Sys2Proof.Machine
end

section
/-! PROOF. A delivered response (30_encoding.md R72; log entry 11): what the read makes of the answers that deliver it, and what the
tests make of the bytes. -/

namespace Sys2Proof.Machine

/-! ## The status values of a delivery -/

/-- DR is a bit of a byte, and not the bit THRE is (00_scope.md R7). -/
structure StatusBitsOk (p : Params) : Prop where
  differ : p.lsrDrBit ≠ p.lsrThreBit
  dataReady : p.lsrDrBit ≤ 7

theorem statusBitsOk_of_valid {p : Params} {base : Nat} (h : paramsValid p base = true) : StatusBitsOk p := by
  rw [paramsValid_iff] at h
  unfold breaksR7 at h
  push Not at h
  obtain ⟨-, -, -, -, -, -, -, hne, hdr, -, -⟩ := h
  exact ⟨hne, hdr⟩

theorem dataReady_lsrValue {p : Params} (h : StatusBitsOk p) (dr : Bool) : dataReady p (lsrValue p dr) = dr := by
  have hdr : p.lsrDrBit < 8 := Nat.lt_succ_of_le h.dataReady
  have hthre : (2 ^ p.lsrThreBit).testBit p.lsrDrBit = false := by
    rw [Nat.testBit_two_pow]; exact decide_eq_false h.differ.symm
  have hset : (2 ^ p.lsrDrBit).testBit p.lsrDrBit = true := Nat.testBit_two_pow_self
  rw [dataReady, lsrValue, BitVec.getLsbD_or, BitVec.getLsbD_ofNat, hthre, Bool.and_false, Bool.false_or]
  cases dr with
  | false => exact BitVec.getLsbD_zero
  | true => rw [if_pos rfl, BitVec.getLsbD_ofNat, hset, decide_eq_true hdr, Bool.and_true]

/-! ## Reading what is delivered -/

/-- A poll that sees DR, and the byte after it (41_byte_transport.md R101). -/
theorem bigReadByte_delivered {p : Params} (h : StatusBitsOk p) {n : Nat} (hn : 1 ≤ n) (b : Byte) (ws : List Word) :
    ∃ ev, bigReadByte p n (busWord (lsrValue p true) :: busWord b :: ws) = some (some b, ev, ws) := by
  obtain ⟨n, rfl⟩ := Nat.exists_eq_add_of_le' hn
  refine ⟨[.rd .lsr (lsrValue p true), .rd .data b], ?_⟩
  simp only [bigReadByte, busByte_busWord, dataReady_lsrValue h, if_true]

/-- Polls that all see DR clear are a timeout (41_byte_transport.md R101). -/
theorem bigReadByte_silent {p : Params} (h : StatusBitsOk p) (n : Nat) (ws : List Word) :
    ∃ ev, bigReadByte p n (List.replicate n (busWord (lsrValue p false)) ++ ws) = some (none, ev, ws) := by
  induction n with
  | zero => exact ⟨[], rfl⟩
  | succ n ih =>
    obtain ⟨ev, hev⟩ := ih
    rw [List.replicate_succ, List.cons_append]
    by_cases hn : n = 0
    · subst hn
      exact ⟨[.rd .lsr (lsrValue p false)], by simp [bigReadByte, dataReady_lsrValue h]⟩
    · exact ⟨.rd .lsr (lsrValue p false) :: .sleep p.pollInterval :: ev,
        by simp [bigReadByte, dataReady_lsrValue h, hn, hev]⟩

/-- The answers that deliver the bytes `bs` to a read of at most `n` bytes. -/
def deliveryUpTo (p : Params) (n : Nat) (bs : List Byte) : List Word :=
  (bs.take n).flatMap (fun b => [busWord (lsrValue p true), busWord b]) ++
    (if (bs.take n).length < n then List.replicate p.readPollLimit (busWord (lsrValue p false)) else [])

theorem deliveryOf_eq (p : Params) (bs : List Byte) : deliveryOf p bs = deliveryUpTo p p.responseCapacity bs := rfl

theorem deliveryUpTo_cons (p : Params) (n : Nat) (b : Byte) (bs : List Byte) :
    deliveryUpTo p (n + 1) (b :: bs) = busWord (lsrValue p true) :: busWord b :: deliveryUpTo p n bs := by
  simp [deliveryUpTo]

/-- A delivery is read whole, up to the count, and no other answer with it (41_byte_transport.md R104). -/
theorem bigReadBytes_deliveryUpTo {p : Params} (h : StatusBitsOk p) (hlimit : 1 ≤ p.readPollLimit) (n : Nat)
    (bs : List Byte) (ws : List Word) :
    ∃ ev, bigReadBytes p n (deliveryUpTo p n bs ++ ws) = some (bs.take n, ev, ws) := by
  induction n generalizing bs with
  | zero => exact ⟨[], by simp [deliveryUpTo, bigReadBytes]⟩
  | succ n ih =>
    cases bs with
    | nil =>
      obtain ⟨ev, hev⟩ := bigReadByte_silent h p.readPollLimit ws
      exact ⟨ev, by simp [deliveryUpTo, bigReadBytes, hev]⟩
    | cons b bs =>
      obtain ⟨ev, hev⟩ := bigReadByte_delivered h hlimit b (deliveryUpTo p n bs ++ ws)
      obtain ⟨ev', hev'⟩ := ih bs
      exact ⟨ev ++ ev', by simp [deliveryUpTo_cons, bigReadBytes, hev, hev']⟩

/-! ## Judging it -/

/-- A response is long enough and its first four bytes sum to 0, so its content alone is judged (30_encoding.md R72). -/
theorem judgeBytes_response (a : Byte) (tail ack : List Byte) {n : Nat} (hn : 4 ≤ n) :
    judgeBytes ((responseOf a tail).take n) ack = if ack = ackOf a then .acked else .nak := by
  obtain ⟨m, rfl⟩ := Nat.exists_eq_add_of_le' hn
  have hlong : ¬ ((responseOf a tail).take (m + 4)).length ≤ 3 := by simp [responseOf, ackOf]
  have hhead : ((responseOf a tail).take (m + 4)).take 4 = frameOf (ackOf a) := rfl
  have hcontent : ((responseOf a tail).take (m + 4)).take 3 = ackOf a := rfl
  rw [judgeBytes, if_neg hlong, hhead, sum8_frameOf, if_neg (not_not_intro rfl), hcontent]
  simp only [eq_comm]

/-- A written acknowledgement is three bytes. -/
theorem exists_ack_of_written {e : Engine} (h : ackWritten e = true) (hl : e.ack.length = 3) :
    ∃ ack : List Byte, ack.length = 3 ∧ e.ack = ack.map some := by
  obtain ⟨ack, hread⟩ := readFirst_of_written 3 e.ack (Nat.le_of_eq hl.symm)
    (by rw [← hl, List.take_length]; exact h)
  obtain ⟨hlen, htake⟩ := (readFirst_eq_ok_iff _ _ _).mp hread
  exact ⟨ack, hlen, by rw [← htake, ← hl, List.take_length]⟩

/-- The registers after a read that received a list up to the buffer's end. -/
theorem afterRead_take (s : State) (bs : List Byte) (k : Nat) (st : MicroState) :
    afterRead s (bs.take s.par.responseCapacity) k st = { s.eng with
      rbuf := (bs.take s.par.responseCapacity).map some ++ List.replicate (s.par.responseCapacity - bs.length) none
      rcount := min bs.length s.par.responseCapacity, k := k, st := st } := by
  have hroom : s.par.responseCapacity - min s.par.responseCapacity bs.length = s.par.responseCapacity - bs.length := by omega
  rw [afterRead, bufferOf, List.length_take, hroom, Nat.min_comm]

/-! ## The run -/

/-- `s` with the response's bytes before the line's other answers, at the first poll of the read. -/
def responseStarted (a : Byte) (tail : List Byte) (s : State) : State :=
  { s with
    eng := { s.eng with
      rxp := .resp, rbuf := List.replicate s.par.responseCapacity none, rcount := 0, k := 1, st := .rxPoll }
    env := { s.env with
      line := deliveryOf s.par (responseOf a tail) ++ s.env.line, ctx := .response, ret := .noValue } }

/-- The answers put before the line's others are no part of what a run leaves. -/
theorem ranTo_of_responseStarted {s t : State} {a : Byte} {tail : List Byte} {e : Engine} {ev : List Event}
    {rest : List Word} {r : RetVal} (h : ranTo (responseStarted a tail s) e ev rest r t) : ranTo s e ev rest r t := by
  obtain ⟨added, hadded, rfl⟩ := h
  exact ⟨added, hadded.trans (eventAccesses_congr (s := s) (t := responseStarted a tail s) rfl rfl ev), rfl⟩

/-- The end of a response's read judges it. -/
theorem rxDone_of_response {s : State} {o : AttemptOutcome} (hc : s.env.ctx = .response) (hj : judge s.eng = .ok o) :
    rxDone s = .ok (finish (.attempt o) s) := by
  unfold rxDone
  simp only [hc, hj]

/-- The read of a response that has started runs to its end, with the outcome of the tests over the bytes received. -/
theorem ends_of_response {s : State} {a : Byte} {tail ack bs : List Byte} {ev : List Event} {rest : List Word}
    (hl : Live (responseStarted a tail s)) (hp : ParamsOk s.par) (hlen : ack.length = 3) (hack : s.eng.ack = ack.map some)
    (h : bigReadBytes s.par s.par.responseCapacity (deliveryOf s.par (responseOf a tail) ++ s.env.line) =
      some (bs, ev, rest)) :
    ∃ k t, Ends (responseStarted a tail s) ev (afterRead { s with eng := { s.eng with rxp := .resp } } bs k .idle) rest
      (.attempt (judgeBytes bs ack)) t := by
  obtain ⟨u, k, st, hlead, hu, rfl⟩ := leadsTo_of_bigReadBytes h hp.capacity_pos hp.polls (s := responseStarted a tail s)
    (got := []) hl rfl rfl rfl rfl (by simp [responseStarted]) ⟨rfl, rfl⟩
    (by simp [rxMax, responseStarted]) (Nat.le_refl _)
  have hholds : holdsResponse bs ack u := by
    refine ⟨by rw [hu]; rfl, ?_, hlen, by rw [hu]; exact hack⟩
    rw [hu]
    exact bufferOf_take _ bs
  have hends := hlead.ends (v := .attempt (judgeBytes bs ack))
    (rxDone_of_response hlead.during.ctx (judge_of_holdsResponse bs ack u hholds))
  rw [hu] at hends
  exact ⟨k, _, hends⟩

/-- Settles O41: the delivery is read whole up to the buffer, and passes the tests of length and checksum. -/
theorem deliveredResponseIsReadAndJudged : Obligations.DeliveredResponseIsReadAndJudged := by
  intro s a tail hm
  have hexec : execAckResponse a tail s = .next (responseStarted a tail s) := invoke_of_mayInvoke _ s hm
  refine ⟨hexec, fun hn hi hw => ?_⟩
  have hp := hi.ranges.paramsOk
  obtain ⟨ev, hbig⟩ := bigReadBytes_deliveryUpTo (statusBitsOk_of_valid hi.params) hp.polls s.par.responseCapacity
    (responseOf a tail) s.env.line
  rw [← deliveryOf_eq] at hbig
  obtain ⟨ack, hlen, hack⟩ := exists_ack_of_written hw hi.ackSize
  obtain ⟨k, t, ht⟩ := ends_of_response ⟨hn, by simp [responseStarted], hm.2⟩ hp hlen hack hbig
  have hsame : s.eng.ack = [some 0x01, some a, some 0x00] ↔ ack = ackOf a := by
    rw [hack]
    exact List.map_inj_right (fun _ _ => Option.some.inj) (l' := ackOf a)
  have hret : judgeBytes ((responseOf a tail).take s.par.responseCapacity) ack =
      if s.eng.ack = [some 0x01, some a, some 0x00] then .acked else .nak := by
    rw [judgeBytes_response a tail ack hp.capacityLow]
    simp only [hsame]
  refine ⟨ev, k, t, ⟨_, hexec, ht.run⟩, hbig, ranTo_of_responseStarted (a := a) (tail := tail) ?_⟩
  refine ht.ran.ranTo (ht.eng.trans ?_) ht.line ht.ctx (ht.ret.trans (congrArg _ hret))
  rw [afterRead_take, ← hm.1]

end Sys2Proof.Machine
end

section
/-! PROOF. The events of a `READ_BYTE` (41_byte_transport.md R101): its polls, with a sleep between two of them, and the byte. -/

namespace Sys2Proof.Machine

/-- The events of polls that read the values `polls`, with a sleep between two of them (41_byte_transport.md R101). -/
def pollEvents (p : Params) (polls : List Byte) : List Event :=
  (polls.map (fun v => Event.rd .lsr v)).intersperse (.sleep p.pollInterval)

@[simp] theorem pollEvents_singleton (p : Params) (v : Byte) : pollEvents p [v] = [.rd .lsr v] := rfl

/-- A poll and the sleep after it stand before the polls that follow. -/
theorem pollEvents_cons (p : Params) (v : Byte) {polls : List Byte} (h : 1 ≤ polls.length) :
    pollEvents p (v :: polls) = .rd .lsr v :: .sleep p.pollInterval :: pollEvents p polls := by
  cases polls with
  | nil => simp at h
  | cons w polls => simp only [pollEvents, List.map_cons, List.intersperse_cons_cons]

/-- The read of `DATA` that ends a `READ_BYTE`, if it received a byte. -/
def dataEvents : Option Byte → List Event
  | none => []
  | some x => [.rd .data x]

/-- A `READ_BYTE` with `n` polls allowed makes at most `n`, all of them on a timeout. -/
theorem exists_polls_of_bigReadByte {p : Params} {n : Nat} {ws rest : List Word} {b : Option Byte} {ev : List Event}
    (hn : 1 ≤ n) (h : bigReadByte p n ws = some (b, ev, rest)) :
    ∃ polls : List Byte, 1 ≤ polls.length ∧ polls.length ≤ n ∧ (b = none → polls.length = n) ∧
      ev = pollEvents p polls ++ dataEvents b := by
  induction n generalizing ws b ev with
  | zero => cases hn
  | succ n ih =>
    cases ws with
    | nil => cases h
    | cons w ws =>
      unfold bigReadByte at h
      split at h
      · cases ws with
        | nil => cases h
        | cons d ws =>
          cases h
          exact ⟨[busByte w], Nat.le_refl 1, Nat.succ_pos n, by simp, rfl⟩
      · split at h
        · rename_i hlast
          cases h
          exact ⟨[busByte w], Nat.le_refl 1, Nat.succ_pos n, fun _ => by simp [hlast], rfl⟩
        · rename_i hmore
          split at h
          · cases h
          · rename_i b' ev' rest' hrec
            cases h
            obtain ⟨polls, hlow, hhigh, hall, rfl⟩ := ih (Nat.pos_of_ne_zero hmore) hrec
            refine ⟨busByte w :: polls, Nat.succ_pos _, Nat.succ_le_succ hhigh, fun hb => ?_, ?_⟩
            · rw [List.length_cons, hall hb]
            · rw [pollEvents_cons p _ hlow]; rfl

/-- Settles O17: by induction on the polls allowed. -/
theorem readBytePollsAndSleepsAreCounted : Obligations.ReadBytePollsAndSleepsAreCounted := by
  intro p n ws rest b ev hn h
  obtain ⟨polls, hlow, hhigh, hall, hev⟩ := exists_polls_of_bigReadByte hn h
  exact ⟨polls, hlow, hhigh, hall, by cases b <;> exact hev⟩

end Sys2Proof.Machine
end

section
/-! PROOF. How far an engine under way is from rest (43_shutdown_sequencer.md R170): digits that count down, from the commands
still to come to the polls of one byte, read as one number. -/

namespace Sys2Proof.Machine

/-! ## The digits -/

/-- The commands after the current one; all three are still to come in `CFG`. -/
def commandsLeft (s : State) : Nat :=
  match s.eng.st with
  | .cfg => 3
  | _ => 2 - s.eng.cmdIdx.index

/-- The attempts the current command may still start (42_frame_protocol.md R128). -/
def attemptsLeft (s : State) : Nat := s.par.retryLimit - s.eng.attempt

/-- The parts of an attempt from a transmission on: the frame is the first, the flush of a short response the fourth. -/
def txPartsLeft : TxSource → Nat
  | .frame => 10
  | .flush => 7

/-- The parts of an attempt from a read on: the response follows the frame, the drain the flush. -/
def rxPartsLeft : RxPurpose → Nat
  | .resp => 9
  | .drain => 5

/-- The parts of an attempt in the order they come, counted down: the frame, the response, the flush and the drain of a short
one, the diagnostics, the delay after the command (42_frame_protocol.md R126 to R128). -/
def partsLeft (s : State) : Nat :=
  match s.eng.st with
  | .txPoll | .txWrite => txPartsLeft s.eng.txb
  | .rxPoll | .rxSleep | .rxData => rxPartsLeft s.eng.rxp
  | .diagShort => 8
  | .settleFlush => 6
  | .diagCsum => 4
  | .diagNak => 3
  | .postOk | .diagExh => 2
  | .exhSleep => 1
  | .idle | .cfg | .returning | .done => 0

/-- The writes or reads the current sequence may still make. -/
def bytesLeft (s : State) : Nat :=
  match s.eng.st with
  | .cfg => cfgLen s.par - s.eng.cfgJ
  | .txPoll | .txWrite => txLen s - s.eng.txi
  | .rxPoll | .rxSleep | .rxData => rxMax s - s.eng.rcount
  | _ => 0

/-- The steps before the access to `DATA`: a poll that sees THRE, or the polls allowed and the sleeps between them. -/
def pollsLeft (s : State) : Nat :=
  match s.eng.st with
  | .txPoll => 1
  | .rxPoll => 2 * (s.par.readPollLimit - s.eng.k) + 2
  | .rxSleep => 2 * (s.par.readPollLimit - s.eng.k) + 1
  | _ => 0

/-- Where the engine stands among the commands, the attempts and the parts of an attempt. -/
def stage (s : State) : List Nat := [commandsLeft s, attemptsLeft s, partsLeft s]

/-- All digits, the most significant first. -/
def progress (s : State) : List Nat := stage s ++ [bytesLeft s, pollsLeft s]

theorem stage_lt_iff (s t : State) :
    stage t < stage s ↔ commandsLeft t < commandsLeft s ∨ commandsLeft t = commandsLeft s ∧
      (attemptsLeft t < attemptsLeft s ∨ attemptsLeft t = attemptsLeft s ∧ partsLeft t < partsLeft s) := by
  simp [stage, List.cons_lt_cons_iff]

theorem progress_lt_of_stage {s t : State} (h : stage t < stage s) : progress t < progress s := by
  simp only [stage_lt_iff] at h
  simp only [progress, stage, List.cons_append, List.cons_lt_cons_iff]
  tauto

theorem progress_lt_of_bytes {s t : State} (h : stage t = stage s)
    (hb : bytesLeft t < bytesLeft s ∨ bytesLeft t = bytesLeft s ∧ pollsLeft t < pollsLeft s) : progress t < progress s := by
  rw [progress, progress, h]
  simpa [stage, List.cons_lt_cons_iff] using hb

theorem txPartsLeft_pos (b : TxSource) : 0 < txPartsLeft b := by cases b <;> decide

theorem rxPartsLeft_pos (x : RxPurpose) : 0 < rxPartsLeft x := by cases x <;> decide

theorem commandsLeft_of_parts {s : State} (h : 0 < partsLeft s) : commandsLeft s = 2 - s.eng.cmdIdx.index := by
  unfold commandsLeft
  cases hst : s.eng.st
  case cfg => simp [partsLeft, hst] at h
  all_goals rfl

/-- The part of an attempt tells the configuration apart, so the command alone says how many are left. -/
theorem commandsLeft_eq {s t : State} (hs : 0 < partsLeft s) (hst : t.eng.st ≠ .cfg) (hc : t.eng.cmdIdx = s.eng.cmdIdx) :
    commandsLeft t = commandsLeft s := by
  rw [commandsLeft_of_parts hs, ← hc, commandsLeft]
  cases hst' : t.eng.st
  case cfg => exact absurd hst' hst
  all_goals rfl

/-- The digits of a transmission under way. -/
theorem digits_of_transmission {s : State} (h : s.eng.st = .txPoll ∨ s.eng.st = .txWrite) :
    partsLeft s = txPartsLeft s.eng.txb ∧ bytesLeft s = txLen s - s.eng.txi := by
  rcases h with h | h <;> rw [partsLeft, bytesLeft, h] <;> exact ⟨rfl, rfl⟩

/-- The digits of a read under way. -/
theorem digits_of_read {s : State} (h : s.eng.st = .rxPoll ∨ s.eng.st = .rxSleep ∨ s.eng.st = .rxData) :
    partsLeft s = rxPartsLeft s.eng.rxp ∧ bytesLeft s = rxMax s - s.eng.rcount := by
  rcases h with h | h | h <;> rw [partsLeft, bytesLeft, h] <;> exact ⟨rfl, rfl⟩

/-! ## The bounds of the digits -/

/-- A base in which every digit of an engine under the invariant is one digit. -/
def digitBase (p : Params) : Nat := p.retryLimit + p.responseCapacity + p.maxPayloadLen + 2 * p.readPollLimit + 300

theorem commandsLeft_le (s : State) : commandsLeft s ≤ 3 := by
  unfold commandsLeft
  cases s.eng.st <;> simp only <;> omega

theorem partsLeft_le (s : State) : partsLeft s ≤ 10 := by
  unfold partsLeft
  cases s.eng.st <;> cases s.eng.txb <;> cases s.eng.rxp <;> decide

theorem pollsLeft_le (s : State) : pollsLeft s ≤ 2 * s.par.readPollLimit + 2 := by
  unfold pollsLeft
  cases s.eng.st <;> simp only <;> omega

theorem rxMax_le {s : State} (h : rxPositionOk s = true) : rxMax s ≤ s.par.responseCapacity := by
  by_cases hc : s.env.ctx = .readByte
  · simp [rxMax, hc]
  · exact (((rxPositionOk_iff s).mp h).2.2 hc).2

theorem bytesLeft_le {s : State} (hi : Inv s) (hf : s.eng.fault = 0#8) :
    bytesLeft s ≤ 255 + s.par.maxPayloadLen + s.par.responseCapacity + 1 := by
  have htx (hpos : txPositionOk s = true) := txLen_le hi.ranges hpos
  have hrx (hpos : rxPositionOk s = true) := rxMax_le hpos
  have hcfg := cfgLen_le s.par
  unfold bytesLeft
  cases hst : s.eng.st <;> simp only
  case cfg => omega
  case txPoll => have := htx (hi.position_at hf hst); omega
  case txWrite => have := htx (hi.position_at hf hst); omega
  case rxPoll => have := hrx (hi.position_at hf hst); omega
  case rxSleep => have := hrx (Bool.and_eq_true_iff.mp (hi.position_at hf hst)).1; omega
  case rxData => have := hrx (hi.position_at hf hst); omega
  all_goals omega

theorem progress_lt_digitBase {s : State} (hi : Inv s) (hf : s.eng.fault = 0#8) : ∀ d ∈ progress s, d < digitBase s.par := by
  have hcommands := commandsLeft_le s
  have hparts := partsLeft_le s
  have hbytes := bytesLeft_le hi hf
  have hpolls := pollsLeft_le s
  simp only [progress, stage, List.cons_append, List.nil_append, List.forall_mem_cons, attemptsLeft, digitBase]
  refine ⟨?_, ?_, ?_, ?_, ?_, by simp⟩ <;> omega

/-- Of two numbers with as many digits, the one whose digits come first in the order of lists is smaller. -/
theorem ofDigits_reverse_lt {b : Nat} {l l' : List Nat} (hb : 1 < b) (hlen : l.length = l'.length) (hl : ∀ d ∈ l, d < b)
    (h : l < l') : Nat.ofDigits b l.reverse < Nat.ofDigits b l'.reverse := by
  induction l generalizing l' with
  | nil =>
    cases l' with
    | nil => exact absurd h (by simp)
    | cons d' l' => cases hlen
  | cons d l ih =>
    cases l' with
    | nil => cases hlen
    | cons d' l' =>
      have htails : l.length = l'.length := Nat.succ.inj hlen
      rw [List.forall_mem_cons] at hl
      simp only [List.reverse_cons, Nat.ofDigits_append, List.length_reverse, Nat.ofDigits_singleton, ← htails]
      rcases List.cons_lt_cons_iff.mp h with hd | ⟨rfl, hrest⟩
      · have htail : Nat.ofDigits b l.reverse < b ^ l.length := by
          simpa using Nat.ofDigits_lt_base_pow_length (l := l.reverse) hb (by simpa using hl.2)
        calc Nat.ofDigits b l.reverse + b ^ l.length * d
          _ < b ^ l.length * (d + 1) := by rw [Nat.mul_succ]; omega
          _ ≤ b ^ l.length * d' := Nat.mul_le_mul_left _ hd
          _ ≤ Nat.ofDigits b l'.reverse + b ^ l.length * d' := Nat.le_add_left _ _
      · exact Nat.add_lt_add_right (ih htails hl.2 hrest) _

/-! ## The rank -/

/-- 0 at rest; under way, the digits of the progress as one number. -/
def rank (s : State) : Nat := if engineRunning s then Nat.ofDigits (digitBase s.par) (progress s).reverse + 1 else 0

/-- The engine is at rest in `t`, or nearer to it than in `s`. -/
def Advances (s t : State) : Prop := engineRunning t = true → progress t < progress s

theorem rank_lt_of_advances {s t : State} (hi : Inv t) (hp : t.par = s.par) (hs : engineRunning s = true)
    (h : Advances s t) : rank t < rank s := by
  unfold rank
  rw [if_pos hs]
  by_cases ht : engineRunning t = true
  · have hlt := ofDigits_reverse_lt (b := digitBase t.par) (l := progress t) (l' := progress s) (by unfold digitBase; omega) rfl
      (progress_lt_digitBase hi (fault_eq_zero_of_engineRunning ht)) (h ht)
    rw [if_pos ht, ← hp]
    exact Nat.succ_lt_succ hlt
  · rw [if_neg ht]
    exact Nat.succ_pos _

/-- A poll that sees THRE clear changes no register. -/
theorem rank_lineRead (r : LineReg) (s : State) : rank (lineRead r s) = rank s := rfl

end Sys2Proof.Machine
end

section
/-! PROOF. Every row of the step table but an unanswered poll for THRE brings the engine nearer to rest. -/

namespace Sys2Proof.Machine

/-! ## The procedures of R170 -/

/-- The engine is at rest in `t`, or at a later stage than in `s`. -/
def StageFalls (s t : State) : Prop := engineRunning t = true → stage t < stage s

theorem StageFalls.advances {s u t : State} (h : StageFalls u t) (hu : stage u = stage s) : Advances s t :=
  fun ht => progress_lt_of_stage (hu ▸ h ht)

theorem stageFalls_of_inactive {s t : State} (h : t.eng.st.active = false) : StageFalls s t :=
  fun ht => by rw [engineRunning_of_inactive h] at ht; cases ht

theorem finish_stageFalls (s : State) (v : RetVal) : StageFalls s (finish v s) := stageFalls_of_inactive rfl

/-- The same command and attempt, at a later part. -/
theorem stageFalls_of_parts {s t : State} {m n : Nat} (hs : partsLeft s = n) (ht : partsLeft t = m) (hlt : m < n)
    (hst : t.eng.st ≠ .cfg) (hc : t.eng.cmdIdx = s.eng.cmdIdx) (ha : attemptsLeft t = attemptsLeft s) :
    StageFalls s t := fun _ =>
  (stage_lt_iff s t).mpr (.inr ⟨commandsLeft_eq (by omega) hst hc, .inr ⟨ha, by omega⟩⟩)

theorem advances_of_parts {s t : State} {m n : Nat} (hs : partsLeft s = n) (ht : partsLeft t = m) (hlt : m < n)
    (hst : t.eng.st ≠ .cfg) (hc : t.eng.cmdIdx = s.eng.cmdIdx) (ha : attemptsLeft t = attemptsLeft s) : Advances s t :=
  (stageFalls_of_parts hs ht hlt hst hc ha).advances rfl

/-- The same part of the same attempt, nearer to its end. -/
theorem advances_within_part {s t : State} {n : Nat} (hs : partsLeft s = n) (ht : partsLeft t = n) (hn : 0 < n)
    (hst : t.eng.st ≠ .cfg) (hc : t.eng.cmdIdx = s.eng.cmdIdx) (ha : attemptsLeft t = attemptsLeft s)
    (hb : bytesLeft t < bytesLeft s ∨ bytesLeft t = bytesLeft s ∧ pollsLeft t < pollsLeft s) : Advances s t := fun _ =>
  progress_lt_of_bytes (by rw [stage, stage, commandsLeft_eq (by omega) hst hc, ha, ht, hs]) hb

/-- A later part reached by a jump. -/
theorem goto_stageFalls {s : State} {m n : Nat} (st : MicroState) (hs : partsLeft s = n)
    (ht : partsLeft (goto st s) = m) (hlt : m < n) (hst : st ≠ .cfg) : StageFalls s (goto st s) :=
  stageFalls_of_parts hs ht hlt hst rfl rfl

theorem attemptEnd_stageFalls {s : State} (o : AttemptOutcome) (h : 2 < partsLeft s) : StageFalls s (attemptEnd o s) := by
  rcases attemptEnd_cases o s with ⟨-, he⟩ | ⟨-, -, he⟩ | ⟨-, -, hl, he⟩ | ⟨-, -, -, he⟩ <;> rw [he]
  · exact finish_stageFalls s _
  · exact goto_stageFalls .postOk rfl rfl h (by simp)
  · refine fun _ => (stage_lt_iff s _).mpr (.inr ⟨?_, .inl ?_⟩)
    · rw [commandsLeft_of_parts (by omega : 0 < partsLeft s)]; rfl
    · simp only [attemptsLeft, beginAttempt_par, beginAttempt_eng]; omega
  · exact goto_stageFalls .diagExh rfl rfl h (by simp)

theorem txDone_stageFalls {s : State} (hst : s.eng.st = .txWrite) : StageFalls s (txDone s) := by
  rcases txDone_cases s with ⟨h, -⟩ | ⟨-, ⟨hb, h⟩ | ⟨hb, h⟩⟩ <;> rw [h]
  · exact finish_stageFalls s _
  · have hs : partsLeft s = 10 := by rw [(digits_of_transmission (.inr hst)).1, hb]; rfl
    exact stageFalls_of_parts (m := 9) hs rfl (by decide) (by simp) rfl rfl
  · have hs : partsLeft s = 7 := by rw [(digits_of_transmission (.inr hst)).1, hb]; rfl
    exact goto_stageFalls (m := 6) .settleFlush hs rfl (by decide) (by simp)

theorem rxDone_stageFalls {s t : State} (hst : s.eng.st = .rxPoll ∨ s.eng.st = .rxData) (h : rxDone s = .ok t) :
    StageFalls s t := by
  obtain ⟨hparts, -⟩ := digits_of_read (hst.imp_right .inr)
  rcases rxDone_ok s t h with ⟨-, rfl⟩ | ⟨-, rfl⟩ | ⟨-, rfl⟩ | ⟨-, o, -, rfl⟩ | ⟨-, hx, rfl⟩ | ⟨-, hx, hj⟩
  · exact finish_stageFalls s _
  · exact finish_stageFalls s _
  · exact finish_stageFalls s _
  · exact finish_stageFalls s _
  · rw [hx] at hparts
    exact attemptEnd_stageFalls .short (by rw [hparts]; decide)
  · rw [hx] at hparts
    rcases hj with ⟨-, rfl⟩ | ⟨-, rfl⟩ | ⟨-, rfl⟩ | ⟨-, rfl⟩
    · exact goto_stageFalls (m := 8) .diagShort hparts rfl (by decide) (by simp)
    · exact goto_stageFalls (m := 4) .diagCsum hparts rfl (by decide) (by simp)
    · exact goto_stageFalls (m := 3) .diagNak hparts rfl (by decide) (by simp)
    · exact attemptEnd_stageFalls .acked (by rw [hparts]; decide)

/-- A command started, with fewer commands after it. -/
theorem beginCommand_stageFalls {c : Command} {s u t : State} (h : beginCommand c u = .ok t)
    (hc : 2 - c.index < commandsLeft s) : StageFalls s t := by
  rw [beginCommand_eq_ok h]
  exact fun _ => (stage_lt_iff s _).mpr (.inl hc)

theorem index_of_next {c c' : Command} (h : c.next? = some c') : c.index < 2 ∧ c'.index = c.index + 1 := by
  cases c <;> cases h <;> decide

theorem commandDone_stageFalls {s t : State} (r : CmdResult) (hs : 0 < partsLeft s) (h : commandDone r s = .ok t) :
    StageFalls s t := by
  rcases commandDone_ok r s t h with ⟨-, rfl⟩ | ⟨-, c, hn, hb⟩ | ⟨-, -, rfl⟩ | ⟨-, -, -, rfl⟩
  · exact finish_stageFalls s _
  · obtain ⟨hlt, hindex⟩ := index_of_next hn
    exact beginCommand_stageFalls hb (by rw [commandsLeft_of_parts hs]; omega)
  · exact stageFalls_of_inactive rfl
  · exact stageFalls_of_parts (m := 0) rfl rfl hs (by simp) rfl rfl

/-! ## The rows of the step table -/

theorem cfgStep_advances {s t : State} (hi : Inv s) (hf : s.eng.fault = 0#8) (hst : s.eng.st = .cfg)
    (h : cfgStep s = .ok t) : Advances s t := by
  have hlt := ((cfgPositionOk_iff s).mp (hi.position_at hf hst)).1
  have hcommands : commandsLeft s = 3 := by rw [commandsLeft, hst]
  obtain ⟨r, v, -, ⟨-, rfl⟩ | ⟨-, d, -, ⟨-, rfl⟩ | ⟨-, hb⟩⟩⟩ := cfgStep_ok s t h
  · refine fun _ => progress_lt_of_bytes rfl (.inl ?_)
    simp only [bytesLeft, cfgWritten, lineWrite_eng, lineWrite_par, hst]
    omega
  · exact (stageFalls_of_inactive rfl).advances rfl
  · exact (beginCommand_stageFalls hb (by rw [hcommands]; omega)).advances rfl

theorem txPollStep_advances {s : State} (hst : s.eng.st = .txPoll) (h : holdingEmpty s.par (lineByte s) = true) :
    Advances s (txPollStep s) := by
  obtain ⟨hparts, hbytes⟩ := digits_of_transmission (.inl hst)
  have hpolls : pollsLeft s = 1 := by rw [pollsLeft, hst]
  rw [txPollStep_of_ready h]
  exact advances_within_part hparts rfl (txPartsLeft_pos _) (by simp) rfl rfl
    (.inr ⟨hbytes.symm, by rw [hpolls]; exact Nat.zero_lt_one⟩)

theorem txWriteStep_advances {s t : State} (hi : Inv s) (hf : s.eng.fault = 0#8) (hst : s.eng.st = .txWrite)
    (h : txWriteStep s = .ok t) : Advances s t := by
  obtain ⟨-, hlt, -⟩ := (txPositionOk_iff s).mp (hi.position_at hf hst)
  obtain ⟨hparts, hbytes⟩ := digits_of_transmission (.inr hst)
  obtain ⟨b, -, ⟨-, rfl⟩ | ⟨hx, u, rfl, ⟨-, rfl⟩ | ⟨-, rfl⟩⟩⟩ := txWriteStep_ok s t h
  · exact (txDone_stageFalls (s := lineWrite .data b s) hst).advances rfl
  · exact (txDone_stageFalls (s := byteSent b s) hst).advances rfl
  · have hlt : s.eng.txi < txLen s := hlt hx
    have hnext : bytesLeft (goto .txPoll (byteSent b s)) = txLen s - (s.eng.txi + 1) := rfl
    exact advances_within_part (t := goto .txPoll (byteSent b s)) hparts rfl (txPartsLeft_pos _) (by simp) rfl rfl
      (.inl (by omega))

theorem rxPollStep_advances {s t : State} (hst : s.eng.st = .rxPoll) (h : rxPollStep s = .ok t) : Advances s t := by
  obtain ⟨hparts, hbytes⟩ := digits_of_read (.inl hst)
  have hpolls : pollsLeft s = 2 * (s.par.readPollLimit - s.eng.k) + 2 := by rw [pollsLeft, hst]
  rcases rxPollStep_ok s t h with ⟨-, rfl⟩ | ⟨-, -, hd⟩ | ⟨-, -, rfl⟩
  · exact advances_within_part hparts rfl (rxPartsLeft_pos _) (by simp) rfl rfl
      (.inr ⟨hbytes.symm, by rw [hpolls]; exact Nat.succ_pos _⟩)
  · exact (rxDone_stageFalls (s := lineRead .lsr s) (.inl hst) hd).advances rfl
  · exact advances_within_part hparts rfl (rxPartsLeft_pos _) (by simp) rfl rfl
      (.inr ⟨hbytes.symm, by rw [hpolls]; exact Nat.lt_succ_self _⟩)

theorem rxSleepStep_advances {s : State} (hi : Inv s) (hf : s.eng.fault = 0#8) (hst : s.eng.st = .rxSleep) :
    Advances s (rxSleepStep s) := by
  have hk : s.eng.k < s.par.readPollLimit := of_decide_eq_true (Bool.and_eq_true_iff.mp (hi.position_at hf hst)).2
  obtain ⟨hparts, hbytes⟩ := digits_of_read (.inr (.inl hst))
  have hpolls : pollsLeft s = 2 * (s.par.readPollLimit - s.eng.k) + 1 := by rw [pollsLeft, hst]
  have hnext : pollsLeft (rxSleepStep s) = 2 * (s.par.readPollLimit - (s.eng.k + 1)) + 2 := rfl
  exact advances_within_part hparts rfl (rxPartsLeft_pos _) (by simp [rxSleepStep]) rfl rfl
    (.inr ⟨hbytes.symm, by omega⟩)

theorem rxDataStep_advances {s t : State} (hi : Inv s) (hf : s.eng.fault = 0#8) (hst : s.eng.st = .rxData)
    (h : rxDataStep s = .ok t) : Advances s t := by
  obtain ⟨-, -, hroom⟩ := (rxPositionOk_iff s).mp (hi.position_at hf hst)
  obtain ⟨hparts, hbytes⟩ := digits_of_read (.inr (.inr hst))
  rcases rxDataStep_ok s t h with ⟨-, rfl⟩ | ⟨-, -, hd⟩ | ⟨hc, -, rfl⟩
  · exact (stageFalls_of_inactive rfl).advances rfl
  · exact (rxDone_stageFalls (s := byteStored s) (.inr hst) hd).advances rfl
  · have hlt : s.eng.rcount < rxMax s := (hroom hc).1
    have hnext : bytesLeft (nextByte (byteStored s)) = rxMax s - (s.eng.rcount + 1) := rfl
    exact advances_within_part (t := nextByte (byteStored s)) hparts rfl (rxPartsLeft_pos _) (by simp [nextByte]) rfl rfl
      (.inl (by omega))

/-- Every row brings the engine nearer to rest, but a `TX_POLL` that sees THRE clear. -/
theorem microRow_advances {s t : State} (hi : Inv s) (hf : s.eng.fault = 0#8) (ha : s.eng.st.active = true)
    (hpoll : s.eng.st = .txPoll → holdingEmpty s.par (lineByte s) = true) (h : microRow s = .ok t) : Advances s t := by
  unfold microRow at h
  cases hst : s.eng.st <;> simp only [hst] at h
  case idle => rw [hst] at ha; cases ha
  case done => rw [hst] at ha; cases ha
  case cfg => exact cfgStep_advances hi hf hst h
  case txPoll => cases h; exact txPollStep_advances hst (hpoll hst)
  case txWrite => exact txWriteStep_advances hi hf hst h
  case rxPoll => exact rxPollStep_advances hst h
  case rxSleep => cases h; exact rxSleepStep_advances hi hf hst
  case rxData => exact rxDataStep_advances hi hf hst h
  case diagShort =>
    cases h
    exact advances_of_parts (m := 7) (n := 8) (by rw [partsLeft, hst]) rfl (by decide) (by simp [diagShortStep]) rfl rfl
  case settleFlush =>
    cases h
    exact advances_of_parts (m := 5) (n := 6) (by rw [partsLeft, hst]) rfl (by decide) (by simp [settleFlushStep]) rfl rfl
  case diagCsum =>
    unfold diagCsumStep at h
    split at h <;> cases h
    exact advances_of_parts (m := 3) (n := 4) (by rw [partsLeft, hst]) rfl (by decide) (by simp) rfl rfl
  case diagNak =>
    obtain ⟨o, -, -, rfl⟩ := diagNakStep_ok s t h
    have hn : partsLeft (diag .nak [] s) = 3 := by simp [partsLeft, hst]
    exact (attemptEnd_stageFalls o (by omega)).advances rfl
  case postOk =>
    have hn : partsLeft (sleep s.par.postCmdDelay s) = 2 := by simp [partsLeft, hst]
    exact (commandDone_stageFalls .ok (by omega) h).advances rfl
  case diagExh =>
    cases h
    exact advances_of_parts (m := 1) (n := 2) (by rw [partsLeft, hst]) rfl (by decide) (by simp [diagExhStep]) rfl rfl
  case exhSleep =>
    have hn : partsLeft (sleep s.par.postCmdDelay s) = 1 := by simp [partsLeft, hst]
    exact (commandDone_stageFalls .fail (by omega) h).advances rfl
  case returning =>
    cases h
    exact (stageFalls_of_inactive rfl).advances rfl

/-! ## The step -/

/-- An unanswered poll for THRE only reads the line. -/
theorem step_of_busy {s t : State} (hm : engineMoves s) (hst : s.eng.st = .txPoll)
    (hb : holdingEmpty s.par (lineByte s) = false) (h : step s = .next t) : t = lineRead .lsr s := by
  have hrow : microRow s = .ok (lineRead .lsr s) := by rw [microRow, hst, ← txPollStep_of_busy hb]
  rw [step_of_row hm (indexInRange_of_indexFree (by rw [hst]; rfl)) hrow] at h
  exact (Host.Outcome.next.inj h).symm

/-- Any other engine step brings the engine nearer to rest; a fault stops it. -/
theorem engine_step_advances {s t : State} (hi : Inv s) (hm : engineMoves s)
    (hpoll : s.eng.st = .txPoll → holdingEmpty s.par (lineByte s) = true) (h : step s = .next t) :
    t.par = s.par ∧ Advances s t := by
  obtain ⟨hf, ha, hrow | ⟨k, -, rfl⟩⟩ := engine_step_cases hm h
  · exact ⟨(microRow_surroundings s t hrow).par, microRow_advances hi hf ha hpoll hrow⟩
  · refine ⟨rfl, fun ht => ?_⟩
    rw [engineRunning_of_fault (s := raiseFault k s) k.code_ne_zero] at ht
    cases ht

/-- The rank falls at every engine step, but at an unanswered poll for THRE it stays. -/
theorem rank_of_engine_step {s t : State} (hi : Inv s) (hm : engineMoves s) (h : step s = .next t) :
    rank t < rank s ∨ (s.eng.st = .txPoll ∧ holdingEmpty s.par (lineByte s) = false ∧ rank t = rank s) := by
  by_cases hpoll : s.eng.st = .txPoll ∧ holdingEmpty s.par (lineByte s) = false
  · obtain ⟨hst, hb⟩ := hpoll
    rw [step_of_busy hm hst hb h]
    exact .inr ⟨hst, hb, rank_lineRead .lsr s⟩
  · obtain ⟨hp, hadv⟩ := engine_step_advances hi hm (fun hst => by simpa [hst] using hpoll) h
    exact .inl (rank_lt_of_advances (step_inv hi h) hp hm.2.2 hadv)

/-- Settles O57: the digits of the progress, read as one number, are the rank. -/
theorem onlyAnUndrainedLineKeepsTheEngineRunning : Obligations.OnlyAnUndrainedLineKeepsTheEngineRunning :=
  ⟨rank, fun _ _ => rank_of_engine_step⟩

end Sys2Proof.Machine
end

section
/-! PROOF. On a line that drains every operation ends (41_byte_transport.md R103; 70_reset_and_hazards.md R204). -/

namespace Sys2Proof.Machine

/-! ## `WRITE_BYTE` -/

/-- A `WRITE_BYTE` ends exactly when an answer shows THRE (41_byte_transport.md R102, R103). -/
theorem bigWriteByte_isSome_iff (p : Params) (b : Byte) (ws : List Word) :
    (bigWriteByte p b ws).isSome = true ↔ ∃ w ∈ ws, holdingEmpty p (busByte w) = true := by
  induction ws with
  | nil => simp [bigWriteByte]
  | cons w ws ih =>
    rw [List.exists_mem_cons_iff, ← ih, bigWriteByte]
    cases hw : holdingEmpty p (busByte w)
    · cases bigWriteByte p b ws <;> simp
    · simp

/-! ## Engine steps -/

theorem noRequest_of_surroundings {s t : State} (h : SameSurroundings s t) (hn : noRequest s) : noRequest t :=
  ⟨h.attachReq.trans hn.1, h.port.trans hn.2⟩

/-- No engine step raises a request. -/
theorem noRequest_of_engine_step {s t : State} (hm : engineMoves s) (h : step s = .next t) : noRequest t := by
  obtain ⟨-, -, hrow | ⟨k, -, rfl⟩⟩ := engine_step_cases hm h
  · exact noRequest_of_surroundings (microRow_surroundings s t hrow) hm.1
  · exact hm.1

/-- No instruction raises a request. -/
theorem noRequest_of_exec {s t : State} {i : Instr} (hn : noRequest s) (h : exec i s = .next t) : noRequest t := by
  cases hc : isCall i with
  | true =>
    obtain ⟨r, arg, n, he⟩ := exec_call i s hc
    rw [he] at h
    cases h
    rcases triggerCall_cases r arg { s with env := { s.env with hostCalls := n } } with
      ⟨-, ht⟩ | ⟨-, -, ht⟩ | ⟨-, -, -, ht⟩ | ⟨-, -, ht⟩ <;> rw [ht] <;> exact hn
  | false =>
    obtain ⟨run, he, hkeep⟩ := exec_invocation_surroundings i s hc
    rw [he] at h
    rcases invoke_cases (refusalOf i s) run s with
      ⟨-, hr⟩ | ⟨-, x, -, hr⟩ | ⟨-, -, -, hr⟩ | ⟨-, -, ⟨u, hu, hr⟩ | ⟨k, -, hr⟩⟩ <;> rw [hr] at h <;> cases h
    · exact hn
    · exact noRequest_of_surroundings (hkeep _ _ hu) hn
    · exact hn

/-- Under the invariant every engine step answers a next state. -/
theorem exists_engine_step {s : State} (hi : Inv s) (hm : engineMoves s) : ∃ t, step s = .next t :=
  ⟨_, by rw [stepServesRequestsBeforeTheProgram.2.2.2.1 s hm,
    microStep_of_indexInRange (hi.indexInRange (fault_eq_zero_of_engineRunning hm.2.2))]⟩

/-- With no request pending, an engine under the invariant moves or is at rest. -/
theorem engineMoves_or_atRest {s : State} (hi : Inv s) (hn : noRequest s) : engineMoves s ∨ atRest s := by
  by_cases hf : s.eng.fault = 0#8
  · cases ha : s.eng.st.active with
    | true =>
      exact .inl ⟨hn, fun hc => hi.stuckFaulted hc hf, Bool.and_eq_true_iff.mpr ⟨decide_eq_true hf, ha⟩⟩
    | false =>
      refine .inr (.inr ?_)
      revert ha
      cases s.eng.st <;> simp [MicroState.active]
  · exact .inr (.inl hf)

theorem runsTo_of_step {s t : State} (h : step s = .next t) : runsTo s t := ⟨1, by rw [run_of_next 0 s t h]; rfl⟩

/-! ## The run to rest -/

/-- What holds of an engine that is let run on a line that drains. -/
structure Draining (s : State) : Prop where
  inv : Inv s
  noRequest : noRequest s
  drains : lineDrains s

theorem Draining.step {s t : State} (hd : Draining s) (hm : engineMoves s) (h : step s = .next t) : Draining t :=
  ⟨step_inv hd.inv h, noRequest_of_engine_step hm h, lineDrains_of_step s t hd.drains h⟩

/-- A poll for THRE that an answer to come will satisfy is left behind: the run comes to a lower rank. -/
theorem exists_lower_rank_of_upcoming (i : Nat) {s : State} (hd : Draining s) (hm : engineMoves s)
    (hready : holdingEmpty s.par (busByte (upcoming s i)) = true) :
    ∃ t, runsTo s t ∧ Draining t ∧ rank t < rank s := by
  induction i generalizing s with
  | zero =>
    obtain ⟨t, ht⟩ := exists_engine_step hd.inv hm
    refine ⟨t, runsTo_of_step ht, hd.step hm ht, (rank_of_engine_step hd.inv hm ht).resolve_right fun ⟨_, hb, _⟩ => ?_⟩
    rw [upcoming_zero] at hready
    exact Bool.false_ne_true (hb.symm.trans hready)
  | succ i ih =>
    obtain ⟨t, ht⟩ := exists_engine_step hd.inv hm
    rcases rank_of_engine_step hd.inv hm ht with hlt | ⟨hst, hb, heq⟩
    · exact ⟨t, runsTo_of_step ht, hd.step hm ht, hlt⟩
    · obtain rfl := step_of_busy hm hst hb ht
      obtain ⟨u, hrun, hu, hlt⟩ := ih (hd.step hm ht) hm (by rw [upcoming_lineRead]; exact hready)
      exact ⟨u, runsTo_trans (runsTo_of_step ht) hrun, hu, heq ▸ hlt⟩

/-- On a line that drains, an engine under way comes to a lower rank. -/
theorem exists_lower_rank {s : State} (hd : Draining s) (hm : engineMoves s) :
    ∃ t, runsTo s t ∧ Draining t ∧ rank t < rank s := by
  by_cases hst : s.eng.st = .txPoll
  · obtain ⟨i, hi⟩ := hd.drains 0 s rfl hm hst
    exact exists_lower_rank_of_upcoming i hd hm hi
  · obtain ⟨t, ht⟩ := exists_engine_step hd.inv hm
    exact ⟨t, runsTo_of_step ht, hd.step hm ht, (rank_of_engine_step hd.inv hm ht).resolve_right fun h => hst h.1⟩

/-- On a line that drains, an engine comes to rest: by induction on its rank. -/
theorem Draining.comesToRest {s : State} (hd : Draining s) : ∃ t, runsTo s t ∧ atRest t := by
  induction hn : rank s using Nat.strong_induction_on generalizing s with
  | _ n ih =>
    rcases engineMoves_or_atRest hd.inv hd.noRequest with hm | hrest
    · obtain ⟨t, hrun, ht, hlt⟩ := exists_lower_rank hd hm
      obtain ⟨u, hrun', hu⟩ := ih (rank t) (hn ▸ hlt) ht rfl
      exact ⟨u, runsTo_trans hrun hrun', hu⟩
    · exact ⟨s, runsTo_refl s, hrest⟩

/-- Settles O59: the rank falls along the run, and each poll for THRE is answered. -/
theorem everyOperationEndsOnALineThatDrains : Obligations.EveryOperationEndsOnALineThatDrains :=
  ⟨bigWriteByte_isSome_iff,
    fun _ hi hm hl => Draining.comesToRest ⟨hi, hm.1, hl⟩,
    fun _ _ i hi hn hlen h hl => Draining.comesToRest ⟨exec_inv i h hi hlen, noRequest_of_exec hn h, hl⟩⟩

end Sys2Proof.Machine
end

section
/-! PROOF. The Frame Protocol's operations that answer at once (42_frame_protocol.md R120, R122 to R125). -/

namespace Sys2Proof.Machine

/-! ## Operations that only return a value -/

/-- An invocation whose run ends at once with a value only returns it. -/
theorem invoke_returning {run : State → Except FaultKind State} {s : State} {v : RetVal} (hm : mayInvoke s)
    (h : run { s with env := { s.env with ret := .noValue } } = .ok (finish v { s with env := { s.env with ret := .noValue } })) :
    invoke none run s = .next (returned v s) := by
  have hidle := finish_of_idle (s := { s with env := { s.env with ret := .noValue } }) v hm.1
  rw [invoke_ok hm (h.trans (congrArg Except.ok hidle))]
  rfl

/-! ## `CHECKSUM` -/

theorem sum8_eq_zero_iff (bs : List Byte) : sum8 bs = 0 ↔ (bs.map BitVec.toNat).sum % 256 = 0 := by
  rw [← BitVec.toNat_inj]
  exact Iff.rfl

theorem checksumOf_toNat (bs : List Byte) : (checksumOf bs).toNat = (256 - (bs.map BitVec.toNat).sum % 256) % 256 := by
  rw [checksumOf, neg8, sum8, BitVec.toNat_ofNat, BitVec.toNat_ofNat]

/-- Settles O21: the byte is the negated sum, and a frame, which is a list with its checksum, sums to 0. -/
theorem checksumCompletesTheSumToZero : Obligations.ChecksumCompletesTheSumToZero := by
  refine ⟨fun _ _ => rfl, fun s bs hm => ?_, checksumOf_toNat, sum8_frameOf, fun bs h => ?_, rfl, rfl⟩
  · rw [exec, execChecksum]
    exact invoke_returning hm rfl
  · rw [checksumOf, (sum8_eq_zero_iff bs).mpr h]
    rfl

/-! ## `EXPECTED_ACK` -/

/-- Settles O23: the length is tested, and the second byte stands in `ack` between 01 and 00. -/
theorem expectedAckTakesTheSecondByte : Obligations.ExpectedAckTakesTheSecondByte := by
  refine ⟨fun _ _ => rfl, fun s b0 b1 rest hm hl => ?_, fun s p hm hp => ?_⟩
  · have hlen : badPayloadLen s.par (b0 :: b1 :: rest) = false := 
      (badPayloadLen_false _ _).mpr ⟨Nat.le_add_left _ _, hl⟩
    rw [exec, execExpectedAck]
    refine invoke_ok hm ?_
    rw [expectedAck, if_neg (by simp [hlen])]
    exact congrArg Except.ok (finish_of_idle _ hm.1)
  · have hbad : badPayloadLen s.par p = true := hp.elim badPayloadLen_of_short badPayloadLen_of_long
    exact ⟨_, _, exec_expectedAck_bad hm hbad⟩

/-! ## `CHECK_LENGTH` -/

theorem exec_checkLength {s : State} (hm : mayInvoke s) :
    exec .checkLength s = .next (returned (.length (isShort s.eng.rcount)) s) := by
  rw [exec, execCheckLength]
  exact invoke_returning hm rfl

/-- Settles O24: the test is against 3. -/
theorem checkLengthTestsTheThreshold : Obligations.CheckLengthTestsTheThreshold := by
  refine ⟨fun _ => rfl, fun s hm hle => ?_, fun s hm hge => ?_⟩
  · rw [exec_checkLength hm, isShort, decide_eq_true hle]
  · rw [exec_checkLength hm, isShort, decide_eq_false (by omega)]

/-! ## Unwritten bytes -/

theorem readFirst_of_unwritten {n : Nat} {buf : List (Option Byte)} (h : none ∈ buf.take n) :
    readFirst n buf = .error .unwritten := by
  cases hr : readFirst n buf with
  | error k => rw [readFirst_error n buf k hr]
  | ok bs =>
    rw [((readFirst_eq_ok_iff n buf bs).mp hr).2] at h
    simp at h

/-- A test that meets an unwritten byte ends its invocation in the fault. -/
theorem invoke_test_unwritten {test : Engine → Except FaultKind Bool} {s : State} (hm : mayInvoke s)
    (h : test s.eng = .error .unwritten) :
    invoke none (fun s0 => (test s0.eng).map (fun b => finish (.test b) s0)) s = .next (faulted .unwritten s) :=
  invoke_error hm (by dsimp only; rw [h]; rfl)

/-- A test that answers ends its invocation with the answer. -/
theorem invoke_test {test : Engine → Except FaultKind Bool} {s : State} {b : Bool} (hm : mayInvoke s)
    (h : test s.eng = .ok b) :
    invoke none (fun s0 => (test s0.eng).map (fun b => finish (.test b) s0)) s = .next (returned (.test b) s) :=
  invoke_returning hm (by dsimp only; rw [h]; rfl)

/-! ## `VERIFY_CHECKSUM` -/

/-- Settles O25: the first four bytes are read and summed, and the invariant has them written once they are counted. -/
theorem verifyChecksumTestsFourBytes : Obligations.VerifyChecksumTestsFourBytes := by
  refine ⟨fun _ => rfl, fun s b0 b1 b2 b3 rest hm hbuf => ?_, fun s hm hnone => ?_, fun s hi hcount hnone => ?_⟩
  · have hsum : sum8 [b0, b1, b2, b3] = 0 ↔ (b0.toNat + b1.toNat + b2.toNat + b3.toNat) % 256 = 0 := by
      rw [sum8_eq_zero_iff]
      simp [Nat.add_assoc]
    have hgood : checksumGood s.eng.rbuf = .ok (decide ((b0.toNat + b1.toNat + b2.toNat + b3.toNat) % 256 = 0)) := by
      rw [hbuf, ← decide_eq_decide.mpr hsum]
      rfl
    exact invoke_test (test := fun e => checksumGood e.rbuf) hm hgood
  · have hread : checksumGood s.eng.rbuf = .error .unwritten := by rw [checksumGood, readFirst_of_unwritten hnone]
    exact ⟨_, _, invoke_test_unwritten (test := fun e => checksumGood e.rbuf) hm hread⟩
  · exact absurd (List.all_eq_true.mp (written_of_le hi.rbufBytes hcount) none hnone) (by simp)

/-! ## `COMPARE_ACK` -/

theorem ackMatches_of_unwritten {rbuf ack : List (Option Byte)} (h : none ∈ rbuf.take 3 ∨ none ∈ ack.take 3) :
    ackMatches rbuf ack = .error .unwritten := by
  rw [ackMatches]
  cases hr : readFirst 3 rbuf with
  | error k => rw [readFirst_error 3 rbuf k hr]
  | ok got =>
    have hack : none ∈ ack.take 3 := h.resolve_left fun hn => by rw [readFirst_of_unwritten hn] at hr; cases hr
    rw [readFirst_of_unwritten hack]

/-- Settles O26: all six bytes are read, and compared one by one. -/
theorem compareAckComparesThreeBytes : Obligations.CompareAckComparesThreeBytes := by
  refine ⟨fun _ => rfl, fun s b0 b1 b2 a0 a1 a2 rest hm hbuf hack => ?_, fun s hm hnone => ?_⟩
  · have hsame : ackMatches s.eng.rbuf s.eng.ack = .ok (decide (b0 = a0 ∧ b1 = a1 ∧ b2 = a2)) := by
      simp [ackMatches, hbuf, hack, readFirst]
    exact invoke_test (test := fun e => ackMatches e.rbuf e.ack) hm hsame
  · exact ⟨_, _, invoke_test_unwritten (test := fun e => ackMatches e.rbuf e.ack) hm (ackMatches_of_unwritten hnone)⟩

end Sys2Proof.Machine
end

section
/-! PROOF. The pseudocode's own bounds on a command (42_frame_protocol.md R127, R128; 60_exceptions.md R186), and the harness's run
of one. -/

namespace Sys2Proof.Machine

/-! ## Counting diagnostics -/

@[simp] theorem diagCount_nil : diagCount [] = 0 := rfl

@[simp] theorem diagCount_append (ev ev' : List Event) : diagCount (ev ++ ev') = diagCount ev + diagCount ev' :=
  List.countP_append

@[simp] theorem diagCount_rd (r : LineReg) (v : Byte) (ev : List Event) : diagCount (.rd r v :: ev) = diagCount ev :=
  List.countP_cons_of_neg (by simp)

@[simp] theorem diagCount_wr (r : LineReg) (v : Byte) (ev : List Event) : diagCount (.wr r v :: ev) = diagCount ev :=
  List.countP_cons_of_neg (by simp)

@[simp] theorem diagCount_sleep (d : Nat) (ev : List Event) : diagCount (.sleep d :: ev) = diagCount ev :=
  List.countP_cons_of_neg (by simp)

@[simp] theorem diagCount_diag (c : DiagCode) (data : List Byte) (ev : List Event) :
    diagCount (.diag c data :: ev) = diagCount ev + 1 :=
  List.countP_cons_of_pos rfl

/-! ## Transfers record no diagnostic -/

theorem diagCount_of_bigWriteByte {p : Params} {b : Byte} {ws rest : List Word} {ev : List Event}
    (h : bigWriteByte p b ws = some (ev, rest)) : diagCount ev = 0 := by
  induction ws generalizing ev with
  | nil => cases h
  | cons w ws ih =>
    unfold bigWriteByte at h
    split at h
    · cases h
      rfl
    · split at h
      · rename_i ev' rest' hrec
        cases h
        rw [diagCount_rd, ih hrec]
      · cases h

theorem diagCount_of_bigWriteBytes {p : Params} {bs : List Byte} {ws rest : List Word} {ev : List Event}
    (h : bigWriteBytes p bs ws = some (ev, rest)) : diagCount ev = 0 := by
  induction bs generalizing ws ev with
  | nil => cases h; rfl
  | cons b bs ih =>
    unfold bigWriteBytes at h
    split at h
    · cases h
    rename_i ev1 rest1 hone
    split at h
    · cases h
    rename_i ev2 rest2 hrec
    cases h
    rw [diagCount_append, diagCount_of_bigWriteByte hone, ih hrec]

theorem diagCount_of_bigReadByte {p : Params} {n : Nat} {ws rest : List Word} {b : Option Byte} {ev : List Event}
    (h : bigReadByte p n ws = some (b, ev, rest)) : diagCount ev = 0 := by
  induction n generalizing ws ev with
  | zero => cases h; rfl
  | succ n ih =>
    cases ws with
    | nil => cases h
    | cons w ws =>
      unfold bigReadByte at h
      split at h
      · split at h <;> cases h
        rfl
      · split at h
        · cases h
          rfl
        · split at h
          · cases h
          rename_i b' ev' rest' hrec
          cases h
          rw [diagCount_rd, diagCount_sleep, ih hrec]

theorem diagCount_of_bigReadBytes {p : Params} {m : Nat} {ws rest : List Word} {bs : List Byte} {ev : List Event}
    (h : bigReadBytes p m ws = some (bs, ev, rest)) : diagCount ev = 0 := by
  induction m generalizing ws bs ev with
  | zero => cases h; rfl
  | succ m ih =>
    unfold bigReadBytes at h
    split at h
    · cases h
    · rename_i ev1 rest1 hone
      cases h
      exact diagCount_of_bigReadByte hone
    · rename_i b ev1 rest1 hone
      split at h
      · cases h
      rename_i bs' ev2 rest2 hrec
      cases h
      rw [diagCount_append, diagCount_of_bigReadByte hone, ih hrec]

theorem diagCount_of_bigResync {p : Params} {ws rest : List Word} {bs : List Byte} {ev : List Event}
    (h : bigResync p ws = some (bs, ev, rest)) : diagCount ev = 0 := by
  unfold bigResync at h
  split at h
  · cases h
  rename_i ev1 rest1 hflush
  split at h
  · cases h
  rename_i bs' ev2 rest2 hdrain
  cases h
  rw [diagCount_append, diagCount_sleep, diagCount_of_bigWriteBytes hflush, diagCount_of_bigReadBytes hdrain]

/-! ## The bounds -/

/-- An attempt records at most two diagnostics, those of a bad checksum (42_frame_protocol.md R127). -/
theorem diagCount_of_bigAttempt {p : Params} {frame ack : List Byte} {ws rest : List Word} {o : AttemptOutcome}
    {ev : List Event} (h : bigAttempt p frame ack ws = some (o, ev, rest)) : diagCount ev ≤ 2 := by
  unfold bigAttempt at h
  split at h
  · cases h
  rename_i ev1 rest1 hsend
  split at h
  · cases h
  rename_i bs ev2 rest2 hresp
  have hsent := diagCount_of_bigWriteBytes hsend
  have hread := diagCount_of_bigReadBytes hresp
  split at h
  · split at h
    · cases h
    rename_i drained ev3 rest3 hresync
    cases h
    have hflush := diagCount_of_bigResync hresync
    simp [hsent, hread, hflush]
  all_goals
    cases h
    simp [hsent, hread]

/-- Up to `n` attempts: no more than `n` are made, all of them where none is acknowledged. -/
theorem bigAttempts_bounds {p : Params} {frame ack : List Byte} {n : Nat} {ws rest : List Word} {ok : Bool} {made : Nat}
    {ev : List Event} (h : bigAttempts p frame ack n ws = some (ok, made, ev, rest)) :
    made ≤ n ∧ (ok = true → 1 ≤ made) ∧ (ok = false → made = n) ∧ diagCount ev ≤ 2 * made := by
  induction n generalizing ws ok made ev with
  | zero => cases h; simp
  | succ n ih =>
    unfold bigAttempts at h
    split at h
    · cases h
    · rename_i ev1 rest1 hone
      cases h
      exact ⟨Nat.le_add_left 1 n, fun _ => Nat.le_refl 1, nofun, diagCount_of_bigAttempt hone⟩
    · rename_i o ev1 rest1 ho hone
      split at h
      · cases h
      rename_i ok' made' ev2 rest2 hrec
      cases h
      obtain ⟨hle, -, hfail, hdiags⟩ := ih hrec
      have hone' := diagCount_of_bigAttempt hone
      refine ⟨Nat.succ_le_succ hle, fun _ => Nat.le_add_left 1 made', fun hok => congrArg (· + 1) (hfail hok), ?_⟩
      rw [diagCount_append]
      omega

/-- Settles O30: an acknowledged attempt is the last, without one every attempt is made, and each records at most two diagnostics
before the one of exhaustion. -/
theorem attemptsAreBoundedByTheRetryLimit : Obligations.AttemptsAreBoundedByTheRetryLimit := by
  intro p c pl ws r hlimit h
  unfold bigSendCommand at h
  split at h
  · cases h
  · rename_i n ev rest hbig
    cases h
    obtain ⟨hle, hpos, -, hdiags⟩ := bigAttempts_bounds hbig
    have hcount : diagCount (ev ++ [.sleep p.postCmdDelay]) = diagCount ev := by simp
    exact ⟨hpos rfl, hle, .inl rfl, by dsimp only; omega⟩
  · rename_i n ev rest hbig
    cases h
    obtain ⟨-, -, hall, hdiags⟩ := bigAttempts_bounds hbig
    obtain rfl := hall rfl
    have hcount : diagCount (ev ++ [.diag .exhausted [BitVec.ofNat 8 c.index], .sleep p.postCmdDelay]) = diagCount ev + 1 := by
      simp
    exact ⟨hlimit, Nat.le_refl _, .inr ⟨rfl, rfl⟩, by dsimp only; omega⟩

/-! ## `SEND_COMMAND` -/

/-- `s` inside a harness `SEND_COMMAND`, before its command starts. -/
def commandEntered (s : State) : State := enter .sendCommand { s with env := { s.env with ret := .noValue } }

theorem exec_sendCommand {s : State} {p : List Byte} (hm : mayInvoke s) (hp : badPayloadLen s.par p = false) :
    exec (.sendCommand p) s = .next (commandStarted p (commandEntered s)) := by
  have hstart : startCommand p (commandEntered s) = .ok (commandStarted p (commandEntered s)) := by
    rw [startCommand_eq, if_neg (by simp [commandEntered, hp])]
  rw [exec, execSendCommand]
  exact invoke_ok hm hstart

theorem attempts_of_sendsCommands {c : Ctx} (h : c.sendsCommands = true) : c.attempts = true := by
  unfold Ctx.attempts
  split
  · rfl
  · exact h

/-- A started command stands at the first poll of its first attempt, over the frame and the acknowledgement it has built. -/
theorem Commanding.attemptStart_of_payload {s : State} (h : Commanding s) (p : List Byte) :
    AttemptStart (frameOf p) (ackOf (p.getD 1 0)) (commandStarted p s) :=
  { noRequest := h.noRequest, notStuck := h.notStuck, noFault := h.noFault
    ctx := attempts_of_sendsCommands h.sends
    params := h.params
    sends := h.sends
    st := rfl, txb := rfl, txi := rfl
    holds := ⟨(frameOf_length p).symm, by rw [frameOf_length]; exact overwriteFrame_take p _, ackOf_length _, rfl⟩ }

/-- Settles O29: the start builds the frame and the acknowledgement and begins the first attempt, and the command that runs to its
delay returns its result. -/
theorem sendCommandRunsItsPseudocode : Obligations.SendCommandRunsItsPseudocode := by
  intro s p hm hlow hhigh
  have hexec := exec_sendCommand hm ((badPayloadLen_false s.par p).mpr ⟨hlow, hhigh⟩)
  refine ⟨hexec, fun hn hi r hbig => ?_⟩
  have hcommanding : Commanding (commandEntered s) :=
    { noRequest := hn, notStuck := by simp [commandEntered], noFault := hm.2, sends := rfl, params := hi.ranges.paramsOk }
  obtain ⟨u, hlead, hsame, hline⟩ := leadsTo_of_bigSendCommand (hcommanding.attemptStart_of_payload p) rfl hbig
  have hdone : commandDone r.result u = .ok (finish (.command r.result) u) := by
    rw [commandDone, hlead.during.ctx]
    rfl
  obtain ⟨hcomp, hran⟩ := (hlead.ends hdone).completes (s := s) (ev0 := []) hexec (.of_quiet rfl rfl rfl)
  have hregs : SameCommand u.eng { s.eng with
      frame := overwriteFrame p s.eng.frame
      frameLen := p.length + 1
      ack := (ackOf (p.getD 1 0)).map some
      attempt := r.attempts } := hsame.trans rfl
  exact ⟨_, _, hcomp, hregs.idle hm.1, hline ▸ hran⟩

end Sys2Proof.Machine
end

section
/-! PROOF. The two recovery paths of a command (42_frame_protocol.md R127, R129): a short response is flushed and drained, a bad one
is answered with the next attempt. -/

namespace Sys2Proof.Machine

/-! ## The end of a read in a command -/

/-- An engine step in a micro-state whose row uses no index register. -/
theorem step_of_indexFree {s t : State} {st : MicroState} (hm : engineMoves s) (hst : s.eng.st = st) (h : st.indexFree = true)
    (hrow : microRow s = .ok t) : step s = .next t :=
  step_of_row hm (indexInRange_of_indexFree (hst ▸ h)) hrow

theorem step_of_timesOut {s t : State} (hm : engineMoves s) (h : timesOut s) (hd : rxDone (lineRead .lsr s) = .ok t) :
    step s = .next t := by
  obtain ⟨hst, hdr, hk⟩ := h
  exact step_of_indexFree hm hst rfl (by rw [microRow_of_rxPoll hst, rxPollStep_of_timeout hdr hk, hd])

theorem step_of_fillsBuffer {s t : State} (hm : engineMoves s) (hc : s.env.ctx.attempts = true) (h : fillsBuffer s)
    (hd : rxDone (byteStored s) = .ok t) : step s = .next t := by
  obtain ⟨hst, hlen, hlast⟩ := h
  have hmax : s.eng.rcount + 1 = rxMax s := by rw [rxMax_of_attempts hc, hlast]
  obtain ⟨-, -, -, hctx⟩ := Ctx.attempts_facts hc
  have hrow : microRow s = .ok t := by
    rw [microRow, hst]
    exact (rxDataStep_of_last hctx hmax).trans hd
  exact step_of_row hm (indexInRange_of_rxData hst (by omega)) hrow

/-- The byte that fills the buffer completes the response. -/
theorem holdsResponse_byteStored {bs want : List Byte} {s : State} (h : holdsResponse bs want s) (hf : fillsBuffer s) :
    holdsResponse (bs ++ [lineByte s]) want (byteStored s) := by
  obtain ⟨hcount, hbuf, hwant, hack⟩ := h
  obtain ⟨-, hlen, hlast⟩ := hf
  refine ⟨by simp [hcount], ?_, hwant, hack⟩
  have hlt : bs.length < s.eng.rbuf.length := by omega
  rw [byteStored_eng, hcount, List.length_append, List.length_singleton,
    List.take_succ_eq_append_getElem (by simpa using hlt), List.take_set_of_le (Nat.le_refl _), hbuf]
  simp

/-- The end of a response read in a command goes where the tests send it. -/
theorem rxDone_of_holdsResponse {bs want : List Byte} {s : State} (hc : s.env.ctx.sendsCommands = true)
    (hx : s.eng.rxp = .resp) (h : holdsResponse bs want s) :
    rxDone s = .ok (goto (afterTests (judgeBytes bs want)) s) := by
  obtain ⟨-, hreads, -, -⟩ := Ctx.attempts_facts (attempts_of_sendsCommands hc)
  rw [rxDone_of_judge hreads hx (judge_of_holdsResponse bs want s h)]
  split
  · rename_i hacked
    rw [attemptEnd_acked (ctx_ne_attempt hc), hacked]
    rfl
  · rfl

/-- The end of a drain read in a command fails the attempt, whatever was drained. -/
theorem rxDone_of_drained {s : State} (hc : s.env.ctx.sendsCommands = true) (hx : s.eng.rxp = .drain) :
    rxDone s = .ok (attemptFailed s) := by
  obtain ⟨-, hreads, -, -⟩ := Ctx.attempts_facts (attempts_of_sendsCommands hc)
  rw [rxDone_of_drain hreads hx, attemptEnd_of_failed .short s (ctx_ne_attempt hc) (by simp)]

/-! ## The other rows of a recovery -/

theorem step_of_diagCsum {s : State} {bs : List Byte} (hm : engineMoves s) (hst : s.eng.st = .diagCsum)
    (hread : readFirst 4 s.eng.rbuf = .ok bs) : step s = .next (goto .diagNak (diag .csumErr bs s)) :=
  step_of_indexFree hm hst rfl (by rw [microRow, hst]; dsimp only; rw [diagCsumStep, hread])

theorem step_of_diagNak {s : State} (hm : engineMoves s) (hc : s.env.ctx.sendsCommands = true) (hst : s.eng.st = .diagNak) :
    step s = .next (attemptFailed (diag .nak [] s)) := by
  have hctx := ctx_ne_attempt hc
  refine step_of_indexFree hm hst rfl ?_
  rw [microRow, hst]
  dsimp only
  rw [diagNakStep_of_command hctx, attemptEnd_of_failed .nak (diag .nak [] s) hctx (by simp)]

/-- The last byte of the flush leads to the settle delay. -/
theorem step_of_flushed {s : State} (hm : engineMoves s) (hc : s.env.ctx.sendsCommands = true) (hst : s.eng.st = .txWrite)
    (hb : s.eng.txb = .flush) (hl : s.eng.txi + 1 = s.par.responseCapacity) :
    step s = .next (goto .settleFlush (byteSent s.par.flushByte s)) := by
  have hatt := attempts_of_sendsCommands hc
  obtain ⟨hbuf, -, hctx, -⟩ := Ctx.attempts_facts hatt
  have hsends := sends_flush hbuf hb
  have hlen : txLen s = s.par.responseCapacity := by simpa using hsends.len
  have hbyte : txByte s = .ok s.par.flushByte := hsends.txByte (List.getElem?_replicate_of_lt (by omega))
  have hdone : txDone (byteSent s.par.flushByte s) = goto .settleFlush (byteSent s.par.flushByte s) :=
    (txDone_of_attempts (s := byteSent s.par.flushByte s) hatt).2 hb
  refine step_of_row hm (indexInRange_of_txWrite hst (by omega)) ?_
  rw [microRow, hst]
  dsimp only
  rw [txWriteStep_of_last hctx hbyte (hl.trans hlen.symm), hdone]

/-! ## The ways into a recovery -/

/-- Registers of no recovery but one that the transmitter's source `b` and the receiver's purpose `x` already were in. -/
structure OffRecovery (b : TxSource) (x : RxPurpose) (e : Engine) : Prop where
  notShort : e.st ≠ .diagShort
  notSettling : e.st ≠ .settleFlush
  txb : e.txb = .flush → b = .flush
  rxp : e.rxp = .drain → x = .drain

/-- What a row does to a recovery (42_frame_protocol.md R129; 43_shutdown_sequencer.md R170): nothing, or the next of its stages. -/
inductive RecoveryMove (s : State) (e : Engine) : Prop
  | off (h : OffRecovery s.eng.txb s.eng.rxp e)
  | short (hst : s.eng.st = .rxPoll ∨ s.eng.st = .rxData) (hx : s.eng.rxp = .resp) (hcount : e.rcount ≤ 3)
      (htxb : e.txb = s.eng.txb) (hrxp : e.rxp = s.eng.rxp) (he : e.st = .diagShort)
  | flush (hst : s.eng.st = .diagShort) (hrxp : e.rxp = s.eng.rxp) (he : e.st = .txPoll)
  | settle (hst : s.eng.st = .txWrite) (hb : s.eng.txb = .flush) (hrxp : e.rxp = s.eng.rxp) (he : e.st = .settleFlush)
  | drain (hst : s.eng.st = .settleFlush) (htxb : e.txb = s.eng.txb) (he : e.st = .rxPoll)

/-- A row that moves to another micro-state and leaves the transmitter's source and the receiver's purpose. -/
theorem RecoveryMove.of_st {s : State} {e : Engine} (st : MicroState) (hs : st ≠ .diagShort) (hf : st ≠ .settleFlush)
    (he : e.st = st) (hb : e.txb = s.eng.txb) (hx : e.rxp = s.eng.rxp) : RecoveryMove s e :=
  .off ⟨he ▸ hs, he ▸ hf, hb ▸ id, hx ▸ id⟩

theorem attemptEnd_offRecovery (o : AttemptOutcome) (s : State) :
    OffRecovery s.eng.txb s.eng.rxp (attemptEnd o s).eng := by
  rcases attemptEnd_cases o s with ⟨-, h⟩ | ⟨-, -, h⟩ | ⟨-, -, -, h⟩ | ⟨-, -, -, h⟩ <;> rw [h]
  · exact ⟨nofun, nofun, id, id⟩
  · exact ⟨nofun, nofun, id, id⟩
  · exact ⟨nofun, nofun, nofun, id⟩
  · exact ⟨nofun, nofun, id, id⟩

theorem beginCommand_offRecovery {c : Command} {s t : State} (h : beginCommand c s = .ok t) :
    OffRecovery s.eng.txb s.eng.rxp t.eng := by
  rw [beginCommand_eq_ok h]
  exact ⟨nofun, nofun, nofun, id⟩

theorem commandDone_offRecovery {r : CmdResult} {s t : State} (h : commandDone r s = .ok t) :
    OffRecovery s.eng.txb s.eng.rxp t.eng := by
  rcases commandDone_ok r s t h with ⟨-, rfl⟩ | ⟨-, c, -, hb⟩ | ⟨-, -, rfl⟩ | ⟨-, -, -, rfl⟩
  · exact ⟨nofun, nofun, id, id⟩
  · exact beginCommand_offRecovery (s := { s with eng := recordResult r s.eng }) hb
  · exact ⟨nofun, nofun, id, id⟩
  · exact ⟨nofun, nofun, id, id⟩

/-- The end of a transmission: only a flush goes on to the settle delay. -/
theorem txDone_recovery {s u : State} (hst : s.eng.st = .txWrite) (hb : u.eng.txb = s.eng.txb) (hx : u.eng.rxp = s.eng.rxp) :
    RecoveryMove s (txDone u).eng := by
  rcases txDone_cases u with ⟨h, -⟩ | ⟨-, ⟨-, h⟩ | ⟨hflush, h⟩⟩ <;> rw [h]
  · exact .off (hb ▸ hx ▸ ⟨nofun, nofun, id, id⟩)
  · exact .off (hb ▸ ⟨nofun, nofun, id, nofun⟩)
  · exact .settle hst (hb ▸ hflush) hx rfl

/-- The end of a read: only a short response goes on to its diagnostic. -/
theorem rxDone_recovery {s u t : State} (hst : s.eng.st = .rxPoll ∨ s.eng.st = .rxData) (hb : u.eng.txb = s.eng.txb)
    (hx : u.eng.rxp = s.eng.rxp) (h : rxDone u = .ok t) : RecoveryMove s t.eng := by
  have hmoves (st : MicroState) (hs : st ≠ .diagShort) (hf : st ≠ .settleFlush) : RecoveryMove s { u.eng with st := st } :=
    .of_st st hs hf rfl hb hx
  have hend (o : AttemptOutcome) : RecoveryMove s (attemptEnd o u).eng := .off (hb ▸ hx ▸ attemptEnd_offRecovery o u)
  rcases rxDone_ok u t h with ⟨-, rfl⟩ | ⟨-, rfl⟩ | ⟨-, rfl⟩ | ⟨-, o, -, rfl⟩ | ⟨-, -, rfl⟩ | ⟨-, hresp, hj⟩
  · exact hmoves .idle nofun nofun
  · exact hmoves .idle nofun nofun
  · exact hmoves .idle nofun nofun
  · exact hmoves .idle nofun nofun
  · exact hend .short
  · rcases hj with ⟨hshort, rfl⟩ | ⟨-, rfl⟩ | ⟨-, rfl⟩ | ⟨-, rfl⟩
    · exact .short hst (hx ▸ hresp) (judge_short hshort) hb hx rfl
    · exact hmoves .diagCsum nofun nofun
    · exact hmoves .diagNak nofun nofun
    · exact hend .acked

/-- What a row of the step table does to a recovery. -/
theorem microRow_recovery {s t : State} (ha : s.eng.st.active = true) (h : microRow s = .ok t) : RecoveryMove s t.eng := by
  unfold microRow at h
  cases hst : s.eng.st <;> simp only [hst] at h
  case idle => rw [hst] at ha; cases ha
  case done => rw [hst] at ha; cases ha
  case cfg =>
    obtain ⟨r, v, -, ⟨-, rfl⟩ | ⟨-, d, -, ⟨-, rfl⟩ | ⟨-, hb⟩⟩⟩ := cfgStep_ok s t h
    · exact .of_st .cfg nofun nofun hst rfl rfl
    · exact .of_st .idle nofun nofun rfl rfl rfl
    · exact .off (beginCommand_offRecovery (s := cfgRecorded d (cfgOperands s).2 (cfgWritten r v s)) hb)
  case txPoll =>
    cases h
    unfold txPollStep
    split
    · exact .of_st .txWrite nofun nofun rfl rfl rfl
    · exact .of_st .txPoll nofun nofun hst rfl rfl
  case txWrite =>
    obtain ⟨b, -, ⟨-, rfl⟩ | ⟨-, u, rfl, ⟨-, rfl⟩ | ⟨-, rfl⟩⟩⟩ := txWriteStep_ok s t h
    · exact txDone_recovery hst rfl rfl
    · exact txDone_recovery hst rfl rfl
    · exact .of_st .txPoll nofun nofun rfl rfl rfl
  case rxPoll =>
    rcases rxPollStep_ok s t h with ⟨-, rfl⟩ | ⟨-, -, hd⟩ | ⟨-, -, rfl⟩
    · exact .of_st .rxData nofun nofun rfl rfl rfl
    · exact rxDone_recovery (u := lineRead .lsr s) (.inl hst) rfl rfl hd
    · exact .of_st .rxSleep nofun nofun rfl rfl rfl
  case rxSleep => cases h; exact .of_st .rxPoll nofun nofun rfl rfl rfl
  case rxData =>
    rcases rxDataStep_ok s t h with ⟨-, rfl⟩ | ⟨-, -, hd⟩ | ⟨-, -, rfl⟩
    · exact .of_st .idle nofun nofun rfl rfl rfl
    · exact rxDone_recovery (u := byteStored s) (.inr hst) rfl rfl hd
    · exact .of_st .rxPoll nofun nofun rfl rfl rfl
  case diagShort => cases h; exact .flush hst rfl rfl
  case settleFlush => cases h; exact .drain hst rfl rfl
  case diagCsum =>
    unfold diagCsumStep at h
    split at h <;> cases h
    exact .of_st .diagNak nofun nofun rfl rfl rfl
  case diagNak =>
    obtain ⟨o, -, -, rfl⟩ := diagNakStep_ok s t h
    exact .off (attemptEnd_offRecovery o (diag .nak [] s))
  case postOk => exact .off (commandDone_offRecovery (s := sleep s.par.postCmdDelay s) h)
  case diagExh => cases h; exact .of_st .exhSleep nofun nofun rfl rfl rfl
  case exhSleep => exact .off (commandDone_offRecovery (s := sleep s.par.postCmdDelay s) h)
  case returning => cases h; exact .of_st .done nofun nofun rfl rfl rfl

/-- The stages of a recovery are entered one after another, the first from a short response. -/
theorem RecoveryMove.order {s : State} {e : Engine} (h : RecoveryMove s e) :
    (e.st = .diagShort → e.rcount ≤ 3 ∧ s.eng.rxp = .resp ∧ (s.eng.st = .rxPoll ∨ s.eng.st = .rxData)) ∧
    (s.eng.txb = .frame → e.txb = .flush → s.eng.st = .diagShort) ∧
    (e.st = .settleFlush → s.eng.st = .txWrite ∧ s.eng.txb = .flush) ∧
    (s.eng.rxp = .resp → e.rxp = .drain → s.eng.st = .settleFlush) := by
  cases h with
  | off h =>
    exact ⟨fun he => absurd he h.notShort, fun hb he => absurd (hb.symm.trans (h.txb he)) nofun, fun he => absurd he h.notSettling,
      fun hx he => absurd (hx.symm.trans (h.rxp he)) nofun⟩
  | short hst hx hcount htxb hrxp he => simp_all
  | flush hst hrxp he => simp_all
  | settle hst hb hrxp he => simp_all
  | drain hst htxb he => simp_all

/-- Settles O31: each row of the two recovery paths, and the only ways into the flush, the settle delay and the drain. -/
theorem onlyShortResponsesAreFlushed : Obligations.OnlyShortResponsesAreFlushed := by
  refine ⟨fun s bs want hm hc h hx => ⟨fun hto => ?_, fun hfill => ?_⟩,
    fun s hm hc => ⟨fun hst b0 b1 b2 b3 rest hbuf => ?_, step_of_diagNak hm hc, fun hst => ?_, step_of_flushed hm hc,
      fun hst => ?_, fun hx hto => ?_, fun hx hfill => ?_⟩,
    fun s t hm h => ?_⟩
  · exact step_of_timesOut hm hto (rxDone_of_holdsResponse (s := lineRead .lsr s) hc hx h)
  · exact step_of_fillsBuffer hm (attempts_of_sendsCommands hc) hfill
      (rxDone_of_holdsResponse (s := byteStored s) hc hx (holdsResponse_byteStored h hfill))
  · exact step_of_diagCsum hm hst (by rw [hbuf]; rfl)
  · exact step_of_indexFree hm hst rfl (by rw [microRow, hst]; rfl)
  · exact step_of_indexFree hm hst rfl (by rw [microRow, hst]; rfl)
  · exact step_of_timesOut hm hto (rxDone_of_drained (s := lineRead .lsr s) hc hx)
  · exact step_of_fillsBuffer hm (attempts_of_sendsCommands hc) hfill (rxDone_of_drained (s := byteStored s) hc hx)
  · obtain ⟨-, ha, hrow | ⟨k, -, rfl⟩⟩ := engine_step_cases hm h
    · obtain ⟨hshort, hflush, hsettle, hdrain⟩ := (microRow_recovery ha hrow).order
      exact ⟨fun he => .inl (hshort he), hflush, fun he => .inl (hsettle he), hdrain⟩
    · have hfault : (raiseFault k s).eng.fault ≠ 0#8 := k.code_ne_zero
      exact ⟨fun _ => .inr hfault, fun hb he => absurd (hb.symm.trans he) nofun, fun _ => .inr hfault,
        fun hx he => absurd (hx.symm.trans he) nofun⟩

end Sys2Proof.Machine
end

section
/-! PROOF. The divisor of a tick rate (43_shutdown_sequencer.md R153), and the configuration with it (R155). -/

namespace Sys2Proof.Machine

/-! ## `COMPUTE_DIVISOR` -/

/-- The divisor is the exact quotient wherever that fits 16 bits. -/
theorem divisorOf_toNat {p : Params} {t : Word} (hb : 1 ≤ p.targetBaud) (hfit : exactDivisor p t < 2 ^ 16) :
    (divisorOf p t).toNat = exactDivisor p t := by
  rw [divisorOf, if_pos ⟨hb, hfit⟩, BitVec.toNat_ofNat, Nat.mod_eq_of_lt hfit]

/-- At the reference baud the quotient fits for every tick rate. -/
theorem exactDivisor_of_reference {p : Params} (hb : p.targetBaud = 38400) (t : Word) :
    exactDivisor p t = (t.toNat + 307200) / 614400 ∧ exactDivisor p t ≤ 6991 := by
  have hq : exactDivisor p t = (t.toNat + 307200) / 614400 := by rw [exactDivisor, hb]
  have ht : t.toNat < 2 ^ 32 := t.isLt
  exact ⟨hq, by omega⟩

theorem divisorOf_toNat_of_reference {p : Params} (hb : p.targetBaud = 38400) (t : Word) :
    (divisorOf p t).toNat = (t.toNat + 307200) / 614400 := by
  obtain ⟨hq, hle⟩ := exactDivisor_of_reference hb t
  rw [divisorOf_toNat (by omega) (by omega), hq]

/-- Settles O32: the quotient fits its 16 bits at the reference baud, where every tick rate gives at most 6991. -/
theorem divisorIsTheRoundedQuotient : Obligations.DivisorIsTheRoundedQuotient := by
  refine ⟨fun _ _ => rfl, fun s t hm => ?_, fun p t hb hfit => divisorOf_toNat hb hfit, fun p t hb => ?_, fun p hb => ?_⟩
  · rw [exec, execComputeDivisor]
    exact invoke_returning hm rfl
  · have hq := divisorOf_toNat_of_reference hb t
    obtain ⟨hexact, hle⟩ := exactDivisor_of_reference hb t
    refine ⟨hq, by omega, fun hlow => BitVec.eq_of_toNat_eq ?_⟩
    rw [hq, Nat.div_eq_of_lt (by omega)]
    rfl
  · have hvalue (t : Word) (d : Half) (hd : (t.toNat + 307200) / 614400 = d.toNat) : divisorOf p t = d :=
      BitVec.eq_of_toNat_eq ((divisorOf_toNat_of_reference hb t).trans hd)
    exact ⟨hvalue _ _ rfl, hvalue _ _ rfl, hvalue _ _ rfl, hvalue _ _ rfl⟩

/-! ## `RECONFIGURE` -/

/-- `s` in `CFG` inside a harness `RECONFIGURE`, before its first write. -/
def reconfiguring (s : State) : State :=
  { s with
    eng := { s.eng with divisor := some (divisorOf s.par s.eng.tickRate), cfgJ := 0, st := .cfg }
    env := { s.env with ctx := .reconfigure, ret := .noValue } }

/-- Settles O15: the divisor of the tick rate is computed, and the writes of the configuration with it end the invocation. -/
theorem reconfigureUsesTheTickRate : Obligations.ReconfigureUsesTheTickRate := by
  intro s hm
  have hexec : execReconfigure s = .next (reconfiguring s) := invoke_of_mayInvoke _ s hm
  refine ⟨hexec, fun hn => ?_⟩
  obtain ⟨u, hlead, hu, hline⟩ := leadsTo_of_configuration (s := reconfiguring s)
    ⟨hn, by simp [reconfiguring], hm.2⟩ rfl rfl rfl
  have hends := hlead.ends (v := .noValue) (by rw [afterConfiguration, hlead.during.ctx]; rfl)
  rw [hu, hline] at hends
  obtain ⟨hcomp, hran⟩ := hends.completes (i := .reconfigure) (s := s) (ev0 := []) hexec (.of_quiet rfl rfl rfl)
  have heng : { configured s.par (divisorOf s.par s.eng.tickRate) s.par.lcrFormat (reconfiguring s).eng with st := .idle } =
      { s.eng with
        divisor := some (divisorOf s.par s.eng.tickRate)
        cfgJ := cfgLen s.par
        cfgDivisor := some (divisorOf s.par s.eng.tickRate)
        cfgFormat := some s.par.lcrFormat } := by rw [← hm.1]; rfl
  exact ⟨_, hcomp, heng ▸ hran⟩

end Sys2Proof.Machine
end

section
/-! PROOF. The host's call (43_shutdown_sequencer.md R150, R152): an accepted reason outside `IDLE` faults, and the argument is
only recorded. -/

namespace Sys2Proof.Machine

/-! ## Re-entry -/

theorem triggerCall_of_reentry {reason : Reason} {s : State} (arg : Word) (ha : accepted reason = true)
    (hf : s.eng.fault = 0#8) (hst : s.eng.st ≠ .idle) :
    triggerCall reason arg s = faulted .reentrantTrigger (emit (.trig reason arg) s) := by
  rcases triggerCall_cases reason arg s with ⟨hne, -⟩ | ⟨-, hna, -⟩ | ⟨-, -, -, h⟩ | ⟨hm, -⟩
  · exact absurd hf hne
  · rw [ha] at hna; cases hna
  · exact h
  · exact absurd hm.1 hst

/-- Each of the host's two codes is its own reason where they differ, and any other code is an unaccepted one
(30_encoding.md R78). -/
theorem hostReason_eq {p : Params} (hne : p.reasonCodeShutdown ≠ p.reasonCodeHalt) :
    hostReason p p.reasonCodeShutdown = .shutdown ∧ hostReason p p.reasonCodeHalt = .halt ∧
      ∀ code, code ≠ p.reasonCodeShutdown → code ≠ p.reasonCodeHalt → hostReason p code = .other code := by
  refine ⟨if_pos rfl, ?_, fun code hs hh => ?_⟩
  · rw [hostReason, if_neg hne.symm, if_pos rfl]
  · rw [hostReason, if_neg hs, if_neg hh]

/-- Settles O36: the tests of the call come to the one for re-entry, which raises its fault in place of the acceptance. -/
theorem secondAcceptedTriggerFaults : Obligations.SecondAcceptedTriggerFaults := by
  refine ⟨fun s reason arg hreason hf hst => ⟨.engine, .noValue, ?_⟩, fun p hne => hostReason_eq hne⟩
  have hacc : accepted reason = true := by rcases hreason with rfl | rfl <;> rfl
  rw [exec, execTrigger, triggerCall_of_reentry arg hacc hf hst]
  simp [faulted, emit, FaultKind.code]

/-! ## The argument -/

/-- A call records its argument, and does the same for every argument. -/
theorem triggerCall_records_argument (reason : Reason) (s : State) :
    ∃ es v, ∀ arg, triggerCall reason arg s = withHistory (s.env.trace ++ .trig reason arg :: es) s.env.bus v := by
  unfold triggerCall
  by_cases hf : s.eng.fault = 0#8
  · cases ha : accepted reason with
    | false => exact ⟨[.ret .notHandled], returnCall .notHandled s, fun arg => by simp [hf, returnCall, emit, withHistory]⟩
    | true =>
      by_cases hst : s.eng.st = .idle
      · exact ⟨[], accept (returned .noValue s), fun arg => by simp [hf, hst, accept, returned, emit, withHistory]⟩
      · exact ⟨[.fault .reentrantTrigger], faulted .reentrantTrigger s, fun arg => by
          simp [hf, hst, raiseFault, faulted, emit, withHistory]⟩
  · exact ⟨[], hung s, fun arg => by simp [hf, hung, emit, withHistory]⟩

/-- A run adds to the record of past events and accesses and depends on none of it (60_exceptions.md R185). -/
theorem run_withHistory {n : Nat} {s t : State} (h : Host.Core.run Sys2Proof.core n s = .next t) :
    ∃ later added, ∀ trace bus, Host.Core.run Sys2Proof.core n (withHistory trace bus s) =
      .next (withHistory (trace ++ later) (bus ++ added) t) := by
  induction n generalizing s with
  | zero =>
    cases h
    exact ⟨[], [], fun trace bus => by simp [Host.Core.run]⟩
  | succ n ih =>
    obtain ⟨u, hstep, hrun⟩ := run_succ_next n s t h
    obtain ⟨es, accesses, hfirst⟩ := stepsNeverReadThePast s u hstep
    obtain ⟨later, added, hrest⟩ := ih hrun
    refine ⟨es ++ later, accesses ++ added, fun trace bus => ?_⟩
    rw [run_of_next n _ _ (hfirst trace bus), hrest, List.append_assoc, List.append_assoc]

/-- Settles O37: the two calls differ in the record alone, and no step reads the record. -/
theorem triggerArgumentIsNeverRead : Obligations.TriggerArgumentIsNeverRead := by
  intro s t reason a b n h
  obtain ⟨es, v, hcall⟩ := triggerCall_records_argument reason s
  have ht : triggerCall reason a s = t := Host.Outcome.next.inj h
  rw [hcall a] at ht
  subst ht
  refine ⟨es, rfl, congrArg Host.Outcome.next (hcall b), fun u hu => ?_⟩
  obtain ⟨later, added, hruns⟩ := run_withHistory hu
  have hself := (hruns (s.env.trace ++ .trig reason a :: es) s.env.bus).symm.trans hu
  have hu' := Host.Outcome.next.inj hself
  refine ⟨later, added, ?_, ?_, ?_⟩
  · rw [← hu']; simp [withHistory]
  · rw [← hu']; rfl
  · rw [hruns]; simp

end Sys2Proof.Machine
end

section
/-! PROOF. The end of a command in the sequence (43_shutdown_sequencer.md R156 to R158): whatever its result, the next one starts,
and after the third the call returns. -/

namespace Sys2Proof.Machine

/-- `s` with the result of the command under way recorded (43_shutdown_sequencer.md R156). -/
def resultRecorded (r : CmdResult) (s : State) : State := { s with eng := recordResult r s.eng }

/-- The end of a command that is not the last begins the next one. -/
theorem commandDone_of_next {r : CmdResult} {s : State} {c : Command} (hc : s.env.ctx ≠ .sendCommand)
    (hn : s.eng.cmdIdx.next? = some c) : commandDone r s = beginCommand c (resultRecorded r s) := by
  unfold commandDone
  rw [hn]
  cases hx : s.env.ctx
  case sendCommand => exact absurd hx hc
  all_goals rfl

/-- The engine's third command ends at the return. -/
theorem commandDone_of_last {r : CmdResult} {s : State} (hc : s.env.ctx = .engine) (hidx : s.eng.cmdIdx = .powerOff) :
    commandDone r s = .ok (goto .returning (resultRecorded r s)) := by
  have hn : s.eng.cmdIdx.next? = none := by rw [hidx]; rfl
  unfold commandDone
  rw [hc, hn]
  rfl

/-- The post-command delay of the command with this result (43_shutdown_sequencer.md R157). -/
def delaysAfter (r : CmdResult) (s : State) : Prop := (s.eng.st = .postOk ∧ r = .ok) ∨ (s.eng.st = .exhSleep ∧ r = .fail)

theorem step_of_delaysAfter {r : CmdResult} {s t : State} (hm : engineMoves s) (h : delaysAfter r s)
    (hdone : commandDone r (sleep s.par.postCmdDelay s) = .ok t) : step s = .next t := by
  rcases h with ⟨hst, rfl⟩ | ⟨hst, rfl⟩
  · exact step_of_indexFree hm hst rfl (by rw [microRow, hst]; exact hdone)
  · exact step_of_indexFree hm hst rfl (by rw [microRow, hst]; exact hdone)

theorem step_of_returning {s : State} (hm : engineMoves s) (hst : s.eng.st = .returning) : step s = .next (returnStep s) :=
  step_of_indexFree hm hst rfl (by rw [microRow, hst])

/-- Settles O38: the end of a command does not test its result. -/
theorem failedCommandsDoNotStopTheSequence : Obligations.FailedCommandsDoNotStopTheSequence := by
  intro s r hm hc hi hdelay
  refine ⟨fun c hn => ?_, fun hidx hengine => ?_⟩
  · have hctx : s.env.ctx ≠ .sendCommand := by rcases hc with hc | hc <;> rw [hc] <;> simp
    have hnext := commandDone_of_next (r := r) (s := sleep s.par.postCmdDelay s) hctx hn
    exact step_of_delaysAfter hm hdelay (hnext.trans (beginCommand_ok c hi.ranges.paramsOk))
  · have hfirst := step_of_delaysAfter hm hdelay (commandDone_of_last (s := sleep s.par.postCmdDelay s) hengine hidx)
    obtain ⟨hn, hstuck, hrun⟩ := hm
    have hf : s.eng.fault = 0#8 := fault_eq_zero_of_engineRunning hrun
    have hmoves : engineMoves (goto .returning (resultRecorded r (sleep s.par.postCmdDelay s))) :=
      ⟨hn, hstuck, Bool.and_eq_true_iff.mpr ⟨decide_eq_true hf, rfl⟩⟩
    refine ⟨_, _, hfirst, step_of_returning hmoves rfl, ?_, rfl⟩
    rw [← hidx]
    rfl

end Sys2Proof.Machine
end

section
/-! PROOF. On a line that drains every accepted call returns `HANDLED` (43_shutdown_sequencer.md R158; 60_exceptions.md R184;
70_reset_and_hazards.md R204): no row of a call under way leaves it but the return. -/

namespace Sys2Proof.Machine

/-! ## A call under way -/

/-- The engine's own pseudocode is under way. -/
structure InCall (s : State) : Prop where
  ctx : s.env.ctx = .engine
  active : s.eng.st.active = true

theorem attemptEnd_inCall {s : State} (hc : s.env.ctx = .engine) (o : AttemptOutcome) : InCall (attemptEnd o s) := by
  rcases attemptEnd_cases o s with ⟨h, -⟩ | ⟨-, -, h⟩ | ⟨-, -, -, h⟩ | ⟨-, -, -, h⟩
  · rw [hc] at h; cases h
  · rw [h]; exact ⟨hc, rfl⟩
  · rw [h]; exact ⟨hc, rfl⟩
  · rw [h]; exact ⟨hc, rfl⟩

theorem beginCommand_inCall {c : Command} {s t : State} (hc : s.env.ctx = .engine) (h : beginCommand c s = .ok t) :
    InCall t := by
  rw [beginCommand_eq_ok h]
  exact ⟨hc, rfl⟩

theorem commandDone_inCall {r : CmdResult} {s t : State} (hc : s.env.ctx = .engine) (h : commandDone r s = .ok t) :
    InCall t := by
  rcases commandDone_ok r s t h with ⟨hx, -⟩ | ⟨-, c, -, hb⟩ | ⟨hx, -⟩ | ⟨-, -, -, rfl⟩
  · rw [hc] at hx; cases hx
  · exact beginCommand_inCall (s := resultRecorded r s) hc hb
  · rw [hc] at hx; cases hx
  · exact ⟨hc, rfl⟩

theorem txDone_inCall {s : State} (hc : s.env.ctx = .engine) : InCall (txDone s) := by
  rcases txDone_cases s with ⟨-, hx⟩ | ⟨-, ⟨-, h⟩ | ⟨-, h⟩⟩
  · simp [hc] at hx
  · rw [h]; exact ⟨hc, rfl⟩
  · rw [h]; exact ⟨hc, rfl⟩

theorem rxDone_inCall {s t : State} (hc : s.env.ctx = .engine) (h : rxDone s = .ok t) : InCall t := by
  rcases rxDone_ok s t h with ⟨hx, -⟩ | ⟨⟨m, hx⟩, -⟩ | ⟨hx, -⟩ | ⟨hx, -⟩ | ⟨-, -, rfl⟩ | ⟨-, -, hj⟩
  · rw [hc] at hx; cases hx
  · rw [hc] at hx; cases hx
  · rw [hc] at hx; cases hx
  · rw [hc] at hx; cases hx
  · exact attemptEnd_inCall hc .short
  · rcases hj with ⟨-, rfl⟩ | ⟨-, rfl⟩ | ⟨-, rfl⟩ | ⟨-, rfl⟩
    · exact ⟨hc, rfl⟩
    · exact ⟨hc, rfl⟩
    · exact ⟨hc, rfl⟩
    · exact attemptEnd_inCall hc .acked

/-- The only row that ends a call under way is the return. -/
theorem microRow_inCall {s t : State} (hs : InCall s) (hret : s.eng.st ≠ .returning) (h : microRow s = .ok t) : InCall t := by
  obtain ⟨hc, ha⟩ := hs
  unfold microRow at h
  cases hst : s.eng.st <;> simp only [hst] at h
  case idle => rw [hst] at ha; cases ha
  case done => rw [hst] at ha; cases ha
  case returning => exact absurd hst hret
  case cfg =>
    obtain ⟨r, v, -, ⟨-, rfl⟩ | ⟨-, d, -, ⟨hx, -⟩ | ⟨-, hb⟩⟩⟩ := cfgStep_ok s t h
    · exact ⟨hc, ha⟩
    · simp [hc] at hx
    · exact beginCommand_inCall (s := cfgRecorded d (cfgOperands s).2 (cfgWritten r v s)) hc hb
  case txPoll =>
    cases h
    unfold txPollStep
    split
    · exact ⟨hc, rfl⟩
    · exact ⟨hc, ha⟩
  case txWrite =>
    obtain ⟨b, -, ⟨⟨x, hx⟩, -⟩ | ⟨-, u, rfl, ⟨-, rfl⟩ | ⟨-, rfl⟩⟩⟩ := txWriteStep_ok s t h
    · rw [hc] at hx; cases hx
    · exact txDone_inCall (s := byteSent b s) hc
    · exact ⟨hc, rfl⟩
  case rxPoll =>
    rcases rxPollStep_ok s t h with ⟨-, rfl⟩ | ⟨-, -, hd⟩ | ⟨-, -, rfl⟩
    · exact ⟨hc, rfl⟩
    · exact rxDone_inCall (s := lineRead .lsr s) hc hd
    · exact ⟨hc, rfl⟩
  case rxSleep => cases h; exact ⟨hc, rfl⟩
  case rxData =>
    rcases rxDataStep_ok s t h with ⟨hx, -⟩ | ⟨-, -, hd⟩ | ⟨-, -, rfl⟩
    · rw [hc] at hx; cases hx
    · exact rxDone_inCall (s := byteStored s) hc hd
    · exact ⟨hc, rfl⟩
  case diagShort => cases h; exact ⟨hc, rfl⟩
  case settleFlush => cases h; exact ⟨hc, rfl⟩
  case diagCsum =>
    unfold diagCsumStep at h
    split at h <;> cases h
    exact ⟨hc, rfl⟩
  case diagNak =>
    obtain ⟨o, -, -, rfl⟩ := diagNakStep_ok s t h
    exact attemptEnd_inCall (s := diag .nak [] s) hc o
  case postOk => exact commandDone_inCall (s := sleep s.par.postCmdDelay s) hc h
  case diagExh => cases h; exact ⟨hc, rfl⟩
  case exhSleep => exact commandDone_inCall (s := sleep s.par.postCmdDelay s) hc h

/-! ## The run of a call -/

/-- The engine has returned `HANDLED`, without a fault (43_shutdown_sequencer.md R158). -/
structure ReturnedHandled (s : State) : Prop where
  done : s.eng.st = .done
  noFault : s.eng.fault = 0#8
  lastEvent : s.env.trace.getLast? = some (.ret .handled)
  ret : s.env.ret = .call .handled

theorem returnStep_returnedHandled {s : State} (hf : s.eng.fault = 0#8) : ReturnedHandled (returnStep s) :=
  ⟨rfl, hf, by simp [returnStep], rfl⟩

/-- What holds of an accepted call until it returns. -/
structure Calling (s : State) : Prop extends InCall s where
  inv : Inv s
  noRequest : noRequest s
  noFault : s.eng.fault = 0#8

theorem Calling.not_atRest {s : State} (h : Calling s) : ¬ atRest s := by
  rintro (hf | hst | hst)
  · exact hf h.noFault
  · have ha := h.active; rw [hst] at ha; cases ha
  · have ha := h.active; rw [hst] at ha; cases ha

theorem Calling.engineMoves {s : State} (h : Calling s) : engineMoves s :=
  (engineMoves_or_atRest h.inv h.noRequest).resolve_right h.not_atRest

/-- A step of a call under way raises no fault: it returns, or the call goes on. -/
theorem Calling.step {s t : State} (h : Calling s) (hstep : step s = .next t) : ReturnedHandled t ∨ Calling t := by
  have hm := h.engineMoves
  obtain ⟨u, hu, hf⟩ := (commandsReadNoUnwrittenByte s h.inv).2 hm (.inl (by rw [h.ctx]; simp))
  have hut : u = t := Host.Outcome.next.inj (hu.symm.trans hstep)
  subst hut
  obtain ⟨-, -, hrow | ⟨k, -, rfl⟩⟩ := engine_step_cases hm hstep
  · by_cases hret : s.eng.st = .returning
    · rw [microRow, hret] at hrow
      cases hrow
      exact .inl (returnStep_returnedHandled h.noFault)
    · exact .inr { microRow_inCall h.toInCall hret hrow with
        inv := step_inv h.inv hstep, noRequest := noRequest_of_engine_step hm hstep, noFault := hf }
  · exact absurd hf k.code_ne_zero

/-- A call that comes to rest has returned on the way. -/
theorem Calling.returns {s : State} (h : Calling s) {n : Nat} {u : State}
    (hrun : Host.Core.run Sys2Proof.core n s = .next u) (hrest : atRest u) : ∃ t, runsTo s t ∧ ReturnedHandled t := by
  induction n generalizing s with
  | zero =>
    cases hrun
    exact absurd hrest h.not_atRest
  | succ n ih =>
    obtain ⟨v, hstep, hrun⟩ := run_succ_next n s u hrun
    rcases h.step hstep with hv | hv
    · exact ⟨v, runsTo_of_step hstep, hv⟩
    · obtain ⟨t, hvt, ht⟩ := ih hv hrun
      exact ⟨t, runsTo_trans (runsTo_of_step hstep) hvt, ht⟩

/-- Settles O60: on a line that drains the engine comes to rest, which a call under way does only by its return. -/
theorem acceptedTriggerReturnsOnALineThatDrains : Obligations.AcceptedTriggerReturnsOnALineThatDrains := by
  intro s t reason arg hreason hm hi hn hexec hdrains
  have hinv : Inv t := exec_inv (.trigger reason arg) hexec hi nofun
  have hreq : noRequest t := noRequest_of_exec hn hexec
  have hcall : InCall t ∧ t.eng.fault = 0#8 := by
    rw [(acceptedTriggerRunsToHandled s reason arg hreason hm).1] at hexec
    cases hexec
    exact ⟨⟨rfl, rfl⟩, hm.2⟩
  have hcalling : Calling t := { hcall.1 with inv := hinv, noRequest := hreq, noFault := hcall.2 }
  obtain ⟨u, ⟨n, hrun⟩, hrest⟩ := Draining.comesToRest ⟨hinv, hreq, hdrains⟩
  obtain ⟨v, hv, hret⟩ := hcalling.returns hrun hrest
  exact ⟨v, hv, hret.done, hret.noFault, hret.lastEvent, hret.ret⟩

end Sys2Proof.Machine
end

section
/-! PROOF. The host's call with an unaccepted reason (60_exceptions.md R183; 43_shutdown_sequencer.md R151): it is recorded,
answered `NOT_HANDLED`, and nothing else. -/

namespace Sys2Proof.Machine

/-- Without a fault the test of the reason stands before the one for re-entry, so an unaccepted reason is answered in every
micro-state (60_exceptions.md R189). -/
theorem triggerCall_of_unaccepted {reason : Reason} {s : State} (arg : Word) (ha : accepted reason = false)
    (hf : s.eng.fault = 0#8) : triggerCall reason arg s = returnCall .notHandled (emit (.trig reason arg) s) := by
  rcases triggerCall_cases reason arg s with ⟨hne, -⟩ | ⟨-, -, h⟩ | ⟨-, hacc, -⟩ | ⟨-, hacc, -⟩
  · exact absurd hf hne
  · exact h
  · rw [ha] at hacc; cases hacc
  · rw [ha] at hacc; cases hacc

/-- Settles O35: the call comes to the test of the reason, whose answer writes the trace and the call's result alone. -/
theorem unacceptedReasonsAreNotHandled : Obligations.UnacceptedReasonsAreNotHandled := by
  intro s code arg hf
  have hna : accepted (.other code) = false := rfl
  rw [exec, execTrigger, triggerCall_of_unaccepted arg hna hf]
  simp [returnCall, emit]

end Sys2Proof.Machine
end

section
/-! PROOF. The receive and transmit hazards (70_reset_and_hazards.md R210, R211): only a poll that sees its status bit goes on to
an access of `DATA`, and the access leaves that position. -/

namespace Sys2Proof.Machine

/-- The micro-states whose primitive accesses `DATA` (43_shutdown_sequencer.md R170). -/
def MicroState.accessesData : MicroState → Bool
  | .txWrite => true
  | .rxData => true
  | _ => false

theorem MicroState.ne_of_not_accessesData {st : MicroState} (h : st.accessesData = false) : st ≠ .rxData ∧ st ≠ .txWrite := by
  constructor <;> rintro rfl <;> cases h

/-! ## The ways to an access of `DATA` -/

theorem attemptEnd_not_accessesData (o : AttemptOutcome) (s : State) : (attemptEnd o s).eng.st.accessesData = false := by
  rcases attemptEnd_cases o s with ⟨-, h⟩ | ⟨-, -, h⟩ | ⟨-, -, -, h⟩ | ⟨-, -, -, h⟩ <;> rw [h] <;> rfl

theorem beginCommand_not_accessesData {c : Command} {s t : State} (h : beginCommand c s = .ok t) :
    t.eng.st.accessesData = false := by
  rw [beginCommand_eq_ok h]
  rfl

theorem commandDone_not_accessesData {r : CmdResult} {s t : State} (h : commandDone r s = .ok t) :
    t.eng.st.accessesData = false := by
  rcases commandDone_ok r s t h with ⟨-, rfl⟩ | ⟨-, c, -, hb⟩ | ⟨-, -, rfl⟩ | ⟨-, -, -, rfl⟩
  · rfl
  · exact beginCommand_not_accessesData hb
  · rfl
  · rfl

theorem txDone_not_accessesData (s : State) : (txDone s).eng.st.accessesData = false := by
  rcases txDone_cases s with ⟨h, -⟩ | ⟨-, ⟨-, h⟩ | ⟨-, h⟩⟩ <;> rw [h] <;> rfl

theorem rxDone_not_accessesData {s t : State} (h : rxDone s = .ok t) : t.eng.st.accessesData = false := by
  rcases rxDone_ok s t h with ⟨-, rfl⟩ | ⟨-, rfl⟩ | ⟨-, rfl⟩ | ⟨-, o, -, rfl⟩ | ⟨-, -, rfl⟩ | ⟨-, -, hj⟩
  · rfl
  · rfl
  · rfl
  · rfl
  · exact attemptEnd_not_accessesData .short s
  · rcases hj with ⟨-, rfl⟩ | ⟨-, rfl⟩ | ⟨-, rfl⟩ | ⟨-, rfl⟩
    · rfl
    · rfl
    · rfl
    · exact attemptEnd_not_accessesData .acked s

/-- Where a row leads, as far as `DATA` is concerned: to no access of it, or by a poll that sees the tested bit to one. -/
inductive LeadsToData (s t : State) : Prop
  | away (h : t.eng.st.accessesData = false)
  | read (hst : s.eng.st = .rxPoll) (hbit : dataReady s.par (lineByte s) = true) (ht : t = goto .rxData (lineRead .lsr s))
  | write (hst : s.eng.st = .txPoll) (hbit : holdingEmpty s.par (lineByte s) = true)
      (ht : t = goto .txWrite (lineRead .lsr s))

/-- Only a poll that sees the tested bit goes on to an access of `DATA`. -/
theorem microRow_leadsToData {s t : State} (ha : s.eng.st.active = true) (h : microRow s = .ok t) : LeadsToData s t := by
  unfold microRow at h
  cases hst : s.eng.st <;> simp only [hst] at h
  case idle => rw [hst] at ha; cases ha
  case done => rw [hst] at ha; cases ha
  case cfg =>
    obtain ⟨r, v, -, ⟨-, rfl⟩ | ⟨-, d, -, ⟨-, rfl⟩ | ⟨-, hb⟩⟩⟩ := cfgStep_ok s t h
    · exact .away (congrArg MicroState.accessesData hst)
    · exact .away rfl
    · exact .away (beginCommand_not_accessesData hb)
  case txPoll =>
    cases h
    cases hbit : holdingEmpty s.par (lineByte s) with
    | true => exact .write hst hbit (txPollStep_of_ready hbit)
    | false =>
      rw [txPollStep_of_busy hbit]
      exact .away (congrArg MicroState.accessesData hst)
  case txWrite =>
    obtain ⟨b, -, ⟨-, rfl⟩ | ⟨-, u, -, ⟨-, rfl⟩ | ⟨-, rfl⟩⟩⟩ := txWriteStep_ok s t h
    · exact .away (txDone_not_accessesData _)
    · exact .away (txDone_not_accessesData u)
    · exact .away rfl
  case rxPoll =>
    rcases rxPollStep_ok s t h with ⟨hbit, ht⟩ | ⟨-, -, hd⟩ | ⟨-, -, rfl⟩
    · exact .read hst hbit ht
    · exact .away (rxDone_not_accessesData hd)
    · exact .away rfl
  case rxSleep => cases h; exact .away rfl
  case rxData =>
    rcases rxDataStep_ok s t h with ⟨-, rfl⟩ | ⟨-, -, hd⟩ | ⟨-, -, rfl⟩
    · exact .away rfl
    · exact .away (rxDone_not_accessesData hd)
    · exact .away rfl
  case diagShort => cases h; exact .away rfl
  case settleFlush => cases h; exact .away rfl
  case diagCsum =>
    unfold diagCsumStep at h
    split at h <;> cases h
    exact .away rfl
  case diagNak =>
    obtain ⟨o, -, -, rfl⟩ := diagNakStep_ok s t h
    exact .away (attemptEnd_not_accessesData o _)
  case postOk => exact .away (commandDone_not_accessesData h)
  case diagExh => cases h; exact .away rfl
  case exhSleep => exact .away (commandDone_not_accessesData h)
  case returning => cases h; exact .away rfl

/-! ## The events that access `DATA` -/

theorem cfgSeq_ne_data {p : Params} {d : Option Half} {f : Byte} {r : LineReg} {v : Option Byte} (h : (r, v) ∈ cfgSeq p d f) :
    r ≠ .data := by
  unfold cfgSeq at h
  rintro rfl
  cases hb : p.lineBinding <;> simp [hb] at h

/-- `DATA` is read by `RX_DATA` alone. -/
theorem RowEvent.st_of_read {s : State} {v : Byte} (h : RowEvent s (.rd .data v)) : s.eng.st = .rxData := by
  unfold RowEvent at h
  cases hst : s.eng.st <;> simp only [hst] at h
  case rxData => rfl
  all_goals simp at h

/-- `DATA` is written by `TX_WRITE` alone. -/
theorem RowEvent.st_of_write {s : State} {v : Byte} (h : RowEvent s (.wr .data v)) : s.eng.st = .txWrite := by
  unfold RowEvent at h
  cases hst : s.eng.st <;> simp only [hst] at h
  case txWrite => rfl
  case cfg =>
    obtain ⟨r, b, hentry, hw⟩ := h
    cases hw
    exact absurd rfl (cfgSeq_ne_data (List.mem_of_getElem? hentry))
  all_goals simp at h

/-! ## The steps that make no access -/

/-- If `t` is about to access `DATA`, then `s` was, over the same line. -/
def KeepsDataPosition (s t : State) : Prop :=
  t.eng.st.accessesData = false ∨ (t.par = s.par ∧ t.eng.base = s.eng.base ∧ t.eng.st = s.eng.st)

theorem triggerCall_keepsDataPosition (r : Reason) (arg : Word) (s : State) : KeepsDataPosition s (triggerCall r arg s) := by
  rcases triggerCall_cases r arg s with ⟨-, h⟩ | ⟨-, -, h⟩ | ⟨-, -, -, h⟩ | ⟨-, -, h⟩ <;> rw [h]
  · exact .inr ⟨rfl, rfl, rfl⟩
  · exact .inr ⟨rfl, rfl, rfl⟩
  · exact .inr ⟨rfl, rfl, rfl⟩
  · exact .inl rfl

theorem sendFrame_not_accessesData {p : List Byte} {s t : State} (h : sendFrame p s = .ok t) :
    t.eng.st.accessesData = false := by
  obtain ⟨u, -, rfl⟩ := exists_of_map_eq_ok h
  rfl

/-- An invocation that only computes a value, or a register and its value, ends in `IDLE`. -/
theorem map_finish_not_accessesData {α : Type} {x : Except FaultKind α} {v : α → RetVal} {f : α → State} {t : State}
    (h : x.map (fun a => finish (v a) (f a)) = .ok t) : t.eng.st.accessesData = false := by
  obtain ⟨a, -, rfl⟩ := exists_of_map_eq_ok h
  rfl

/-- A harness invocation starts at a poll or at the configuration, or ends at once in `IDLE` (30_encoding.md R81). -/
theorem exec_invocation_not_accessesData (i : Instr) (s : State) (h : isCall i = false) :
    ∃ run, exec i s = invoke (refusalOf i s) run s ∧ ∀ s0 t, run s0 = .ok t → t.eng.st.accessesData = false := by
  cases i <;> simp only [exec, execConfigure, execReadByte, execWriteByte, execReadBytes, execWriteBytes, execChecksum,
    execBuildFrame, execExpectedAck, execCheckLength, execVerifyChecksum, execCompareAck, execResync, execAttempt,
    execSendCommand, execComputeDivisor, execReconfigure, execRunSequence, execFrameWatchdogKill, execFrameShutdownWait,
    execFramePowerOff, execCommandFrame, execAckResponse, execExpectedAckRef, execResyncPreamble, refusalOf]
  case trigger => cases h
  case reasonShutdown => cases h
  case reasonHalt => cases h
  case readBytes m =>
    refine ⟨_, rfl, fun s0 t ht => ?_⟩
    split at ht <;> cases ht <;> rfl
  case writeBytes bs =>
    refine ⟨_, rfl, fun s0 t ht => ?_⟩
    split at ht <;> cases ht <;> rfl
  case attempt =>
    refine ⟨_, rfl, fun s0 t ht => ?_⟩
    split at ht <;> cases ht
    · exact txDone_not_accessesData _
    · rfl
  case sendCommand p =>
    refine ⟨_, rfl, fun s0 t ht => ?_⟩
    rw [startCommand_eq] at ht
    split at ht <;> cases ht
    rfl
  case runSequence => exact ⟨_, rfl, fun _ _ ht => beginCommand_not_accessesData ht⟩
  case buildFrame p => exact ⟨_, rfl, fun _ _ ht => map_finish_not_accessesData ht⟩
  case expectedAck p => exact ⟨_, rfl, fun _ _ ht => map_finish_not_accessesData ht⟩
  case verifyChecksum => exact ⟨_, rfl, fun _ _ ht => map_finish_not_accessesData ht⟩
  case compareAck => exact ⟨_, rfl, fun _ _ ht => map_finish_not_accessesData ht⟩
  case frameWatchdogKill => exact ⟨_, rfl, fun _ _ ht => sendFrame_not_accessesData ht⟩
  case frameShutdownWait => exact ⟨_, rfl, fun _ _ ht => sendFrame_not_accessesData ht⟩
  case framePowerOff => exact ⟨_, rfl, fun _ _ ht => sendFrame_not_accessesData ht⟩
  case commandFrame p => exact ⟨_, rfl, fun _ _ ht => sendFrame_not_accessesData ht⟩
  all_goals exact ⟨_, rfl, fun _ _ ht => by cases ht; rfl⟩

theorem exec_keepsDataPosition {i : Instr} {s t : State} (h : exec i s = .next t) : KeepsDataPosition s t := by
  cases hc : isCall i with
  | true =>
    obtain ⟨r, arg, n, he⟩ := exec_call i s hc
    rw [he] at h
    cases h
    exact triggerCall_keepsDataPosition r arg { s with env := { s.env with hostCalls := n } }
  | false =>
    obtain ⟨run, he, haway⟩ := exec_invocation_not_accessesData i s hc
    rw [he] at h
    rcases invoke_cases (refusalOf i s) run s with
      ⟨-, hr⟩ | ⟨-, x, -, hr⟩ | ⟨-, -, -, hr⟩ | ⟨-, -, ⟨u, hu, hr⟩ | ⟨k, -, hr⟩⟩ <;> rw [hr] at h <;> cases h
    · exact .inr ⟨rfl, rfl, rfl⟩
    · exact .inl (haway _ _ hu)
    · exact .inr ⟨rfl, rfl, rfl⟩

/-- A step is a row of the step table, or makes no access and comes to none of `DATA`. -/
theorem step_row_or_quiet {s t : State} (h : step s = .next t) :
    (s.eng.st.active = true ∧ microRow s = .ok t) ∨ (NoAccess s t ∧ KeepsDataPosition s t) := by
  rcases step_cases s with ⟨a, -, hs⟩ | ⟨c, -, -, hs⟩ | ⟨-, -, hs⟩ | ⟨hn, hc, hrun, -⟩ | ⟨-, -, -, hs⟩
  · rw [hs, attach] at h
    split at h <;> cases h
    exact .inr ⟨SameRecord.noAccess ⟨rfl, rfl⟩, .inl rfl⟩
  · rw [hs] at h
    cases h
    exact .inr ⟨SameRecord.then_noAccess ⟨rfl, rfl⟩ (triggerCall_noAccess _ _ _),
      triggerCall_keepsDataPosition _ _ { s with env := { s.env with port := none } }⟩
  · rw [hs] at h
    cases h
    exact .inr ⟨(SameRecord.refl s).noAccess, .inr ⟨rfl, rfl, rfl⟩⟩
  · obtain ⟨-, ha, hrow | ⟨k, -, rfl⟩⟩ := engine_step_cases ⟨hn, hc, hrun⟩ h
    · exact .inl ⟨ha, hrow⟩
    · exact .inr ⟨⟨rfl, [.fault k], rfl, by simp [Event.isAccess]⟩, .inr ⟨rfl, rfl, rfl⟩⟩
  · rcases hs with ⟨-, hs⟩ | ⟨e, -, hs⟩ | ⟨i, s1, hfetch, hs⟩ <;> rw [hs] at h
    · cases h
      exact .inr ⟨(SameRecord.refl s).noAccess, .inr ⟨rfl, rfl, rfl⟩⟩
    · cases h
    · obtain ⟨item, left, rest, -, -, rfl⟩ := fetch_ok s s1 i hfetch
      have hquiet := exec_noAccess h
      exact .inr ⟨SameRecord.then_noAccess ⟨rfl, rfl⟩ hquiet,
        exec_keepsDataPosition (s := { s with env := { s.env with program := putBack item left rest } }) h⟩

/-! ## The hazards -/

theorem hazardsRespected_of_not_accessesData {s : State} (h : s.eng.st.accessesData = false) : hazardsRespected s :=
  have hne := MicroState.ne_of_not_accessesData h
  ⟨fun hst => absurd hst hne.1, fun hst => absurd hst hne.2⟩

/-- The last access read `LSR` with a bit set, if a poll that saw the bit has just been made. -/
theorem lastReadLsr_of_poll {test : Params → Byte → Bool} {s : State} (st : MicroState)
    (h : test s.par (lineByte s) = true) : lastReadLsr test (goto st (lineRead .lsr s)) :=
  ⟨lineWord s, List.getLast?_concat, h⟩

theorem lastReadLsr_congr {test : Params → Byte → Bool} {s t : State} (hp : t.par = s.par) (hb : t.eng.base = s.eng.base)
    (hbus : t.env.bus = s.env.bus) (h : lastReadLsr test s) : lastReadLsr test t := by
  simpa only [lastReadLsr, accessOf, hp, hb, hbus] using h

/-- A row leaves the engine about to access `DATA` only right after the poll for it. -/
theorem LeadsToData.hazardsRespected {s t : State} (h : LeadsToData s t) : hazardsRespected t := by
  cases h with
  | away h => exact hazardsRespected_of_not_accessesData h
  | read hst hbit ht =>
    subst ht
    exact ⟨fun _ => lastReadLsr_of_poll .rxData hbit, nofun⟩
  | write hst hbit ht =>
    subst ht
    exact ⟨nofun, fun _ => lastReadLsr_of_poll .txWrite hbit⟩

/-- With no access made, the poll that a pending access of `DATA` came from is still the last access. -/
theorem KeepsDataPosition.hazardsRespected {s t : State} (h : KeepsDataPosition s t) (hbus : t.env.bus = s.env.bus)
    (hs : hazardsRespected s) : hazardsRespected t := by
  rcases h with h | ⟨hp, hb, hst⟩
  · exact hazardsRespected_of_not_accessesData h
  · obtain ⟨hread, hwrite⟩ := hs
    exact ⟨fun h => lastReadLsr_congr hp hb hbus (hread (hst ▸ h)), fun h => lastReadLsr_congr hp hb hbus (hwrite (hst ▸ h))⟩

/-- The row of an access of `DATA` leads to no other one. -/
theorem LeadsToData.away_of_access {s t : State} (h : LeadsToData s t) (hs : s.eng.st.accessesData = true) :
    t.eng.st ≠ .rxData ∧ t.eng.st ≠ .txWrite := by
  cases h with
  | away h => exact MicroState.ne_of_not_accessesData h
  | read hst => rw [hst] at hs; cases hs
  | write hst => rw [hst] at hs; cases hs

/-- Settles O54: a row goes on to an access of `DATA` only by the poll for it, the access goes on to no other, and every other step
makes no access and comes to none. -/
theorem dataIsAccessedOnlyRightAfterItsPoll : Obligations.DataIsAccessedOnlyRightAfterItsPoll := by
  intro s t hs h
  rcases step_row_or_quiet h with ⟨ha, hrow⟩ | ⟨⟨hbus, es, htrace, hes⟩, hkeeps⟩
  · have hleads := microRow_leadsToData ha hrow
    obtain ⟨e, he, hran⟩ := microRow_ran s t hrow ha
    refine ⟨hleads.hazardsRespected, [e], hran.trace, fun v => ⟨fun hmem => ?_, fun hmem => ?_⟩⟩
    · obtain rfl := List.mem_singleton.mp hmem
      have hst := he.st_of_read
      exact ⟨hst, hs.1 hst, (hleads.away_of_access (by rw [hst]; rfl)).1⟩
    · obtain rfl := List.mem_singleton.mp hmem
      have hst := he.st_of_write
      exact ⟨hst, hs.2 hst, (hleads.away_of_access (by rw [hst]; rfl)).2⟩
  · refine ⟨hkeeps.hazardsRespected hbus hs, es, htrace, fun v => ⟨fun hmem => ?_, fun hmem => ?_⟩⟩
    · exact absurd (hes _ hmem) nofun
    · exact absurd (hes _ hmem) nofun

end Sys2Proof.Machine
end

section
/-! PROOF. The bounds on sleeping (70_reset_and_hazards.md R215), along the pseudocode of files 41 to 43. -/

namespace Sys2Proof.Machine

@[simp] theorem sleepUnits_nil : sleepUnits [] = 0 := rfl
@[simp] theorem sleepUnits_sleep (d : Nat) (ev : List Event) : sleepUnits (.sleep d :: ev) = d + sleepUnits ev := rfl
@[simp] theorem sleepUnits_rd (r : LineReg) (v : Byte) (ev : List Event) : sleepUnits (.rd r v :: ev) = sleepUnits ev := rfl
@[simp] theorem sleepUnits_ret (r : CallResult) (ev : List Event) : sleepUnits (.ret r :: ev) = sleepUnits ev := rfl
@[simp] theorem sleepUnits_diag (c : DiagCode) (data : List Byte) (ev : List Event) :
    sleepUnits (.diag c data :: ev) = sleepUnits ev := rfl

@[simp] theorem sleepUnits_append (ev ev' : List Event) : sleepUnits (ev ++ ev') = sleepUnits ev + sleepUnits ev' := by
  induction ev with
  | nil => simp
  | cons e ev ih => cases e <;> simp [sleepUnits, ih, Nat.add_assoc]

/-! ## The Byte Transport -/

/-- The most a `READ_BYTE` sleeps: between every two of its polls (41_byte_transport.md R101). -/
def byteSleep (p : Params) : Nat := (p.readPollLimit - 1) * p.pollInterval

theorem sleepUnits_of_bigWriteByte {p : Params} {b : Byte} {ws rest : List Word} {ev : List Event}
    (h : bigWriteByte p b ws = some (ev, rest)) : sleepUnits ev = 0 := by
  induction ws generalizing ev with
  | nil => cases h
  | cons w ws ih =>
    unfold bigWriteByte at h
    split at h
    · cases h
      rfl
    · split at h
      · rename_i ev' rest' hrec
        cases h
        rw [sleepUnits_rd, ih hrec]
      · cases h

theorem sleepUnits_of_bigWriteBytes {p : Params} {bs : List Byte} {ws rest : List Word} {ev : List Event}
    (h : bigWriteBytes p bs ws = some (ev, rest)) : sleepUnits ev = 0 := by
  induction bs generalizing ws ev with
  | nil => cases h; rfl
  | cons b bs ih =>
    unfold bigWriteBytes at h
    split at h
    · cases h
    rename_i ev1 rest1 hone
    split at h
    · cases h
    rename_i ev2 rest2 hrec
    cases h
    rw [sleepUnits_append, sleepUnits_of_bigWriteByte hone, ih hrec]

/-- With `n` polls left there is a sleep after each but the last. -/
theorem sleepUnits_of_bigReadByte {p : Params} {n : Nat} {ws rest : List Word} {b : Option Byte} {ev : List Event}
    (h : bigReadByte p n ws = some (b, ev, rest)) : sleepUnits ev ≤ (n - 1) * p.pollInterval := by
  induction n generalizing ws ev with
  | zero => cases h; simp
  | succ n ih =>
    cases ws with
    | nil => cases h
    | cons w ws =>
      unfold bigReadByte at h
      split at h
      · split at h <;> cases h
        simp
      · split at h
        · cases h
          simp
        · rename_i hmore
          split at h
          · cases h
          rename_i b' ev' rest' hrec
          cases h
          have hslept : p.pollInterval + sleepUnits ev' ≤ p.pollInterval + (n - 1) * p.pollInterval :=
            Nat.add_le_add_left (ih hrec) _
          have hpolls : n = n - 1 + 1 := by omega
          calc sleepUnits (.rd .lsr (busByte w) :: .sleep p.pollInterval :: ev')
            _ ≤ p.pollInterval + (n - 1) * p.pollInterval := hslept
            _ = (n - 1 + 1) * p.pollInterval := by rw [Nat.succ_mul, Nat.add_comm]
            _ = (n + 1 - 1) * p.pollInterval := by rw [← hpolls, Nat.add_sub_cancel]

/-- A read sleeps for each byte it received and for the one it gave up on, if it did (41_byte_transport.md R104). -/
theorem sleepUnits_of_bigReadBytes {p : Params} {m : Nat} {ws rest : List Word} {bs : List Byte} {ev : List Event}
    (h : bigReadBytes p m ws = some (bs, ev, rest)) : sleepUnits ev ≤ min m (bs.length + 1) * byteSleep p := by
  induction m generalizing ws bs ev with
  | zero => cases h; simp
  | succ m ih =>
    unfold bigReadBytes at h
    split at h
    · cases h
    · rename_i ev1 rest1 hone
      cases h
      simpa [byteSleep] using sleepUnits_of_bigReadByte hone
    · rename_i b ev1 rest1 hone
      split at h
      · cases h
      rename_i bs' ev2 rest2 hrec
      cases h
      have hfirst : sleepUnits ev1 ≤ byteSleep p := sleepUnits_of_bigReadByte hone
      have hothers := ih hrec
      rw [sleepUnits_append, List.length_cons, Nat.succ_min_succ, Nat.succ_mul]
      omega

/-- A read of at most `m` bytes sleeps for at most `m` of them. -/
theorem sleepUnits_le_of_bigReadBytes {p : Params} {m : Nat} {ws rest : List Word} {bs : List Byte} {ev : List Event}
    (h : bigReadBytes p m ws = some (bs, ev, rest)) : sleepUnits ev ≤ m * byteSleep p :=
  (sleepUnits_of_bigReadBytes h).trans (Nat.mul_le_mul_right _ (Nat.min_le_left _ _))

/-- A short response is given up on after at most three bytes (42_frame_protocol.md R123). -/
theorem sleepUnits_le_of_short {p : Params} {m : Nat} {ws rest : List Word} {bs : List Byte} {ev : List Event}
    (h : bigReadBytes p m ws = some (bs, ev, rest)) (hshort : bs.length ≤ 3) : sleepUnits ev ≤ 4 * byteSleep p :=
  (sleepUnits_of_bigReadBytes h).trans
    (Nat.mul_le_mul_right _ ((Nat.min_le_right _ _).trans (Nat.succ_le_succ hshort)))

/-! ## The Frame Protocol -/

theorem sleepUnits_of_bigResync {p : Params} {ws rest : List Word} {bs : List Byte} {ev : List Event}
    (h : bigResync p ws = some (bs, ev, rest)) : sleepUnits ev ≤ p.flushSettle + p.responseCapacity * byteSleep p := by
  unfold bigResync at h
  split at h
  · cases h
  rename_i ev1 rest1 hflush
  split at h
  · cases h
  rename_i bs' ev2 rest2 hdrain
  cases h
  have hsent := sleepUnits_of_bigWriteBytes hflush
  have hread := sleepUnits_le_of_bigReadBytes hdrain
  rw [sleepUnits_append, sleepUnits_sleep]
  omega

theorem length_le_of_judgeBytes_short {bs ack : List Byte} (h : judgeBytes bs ack = .short) : bs.length ≤ 3 := by
  unfold judgeBytes at h
  split at h
  · assumption
  · split at h
    · cases h
    · split at h <;> cases h

/-- The most an attempt sleeps: a short response read, the settle delay and the drain read (42_frame_protocol.md R127). -/
def attemptSleep (p : Params) : Nat := 4 * byteSleep p + p.flushSettle + p.responseCapacity * byteSleep p

theorem sleepUnits_of_bigAttempt {p : Params} {frame ack : List Byte} {ws rest : List Word} {o : AttemptOutcome}
    {ev : List Event} (h : bigAttempt p frame ack ws = some (o, ev, rest)) :
    sleepUnits ev ≤ if o = .short then attemptSleep p else p.responseCapacity * byteSleep p := by
  unfold bigAttempt at h
  split at h
  · cases h
  rename_i ev1 rest1 hsend
  split at h
  · cases h
  rename_i bs ev2 rest2 hresp
  have hsent := sleepUnits_of_bigWriteBytes hsend
  have hread := sleepUnits_le_of_bigReadBytes hresp
  split at h
  · rename_i hjudge
    split at h
    · cases h
    rename_i drained ev3 rest3 hresync
    cases h
    have hshort := sleepUnits_le_of_short hresp (length_le_of_judgeBytes_short hjudge)
    have hflush := sleepUnits_of_bigResync hresync
    rw [if_pos rfl, attemptSleep]
    simp only [sleepUnits_append, sleepUnits_diag]
    omega
  all_goals
    cases h
    simpa [hsent] using hread

/-- Acknowledged or not, short or not. -/
theorem sleepUnits_le_of_bigAttempt {p : Params} {frame ack : List Byte} {ws rest : List Word} {o : AttemptOutcome}
    {ev : List Event} (h : bigAttempt p frame ack ws = some (o, ev, rest)) : sleepUnits ev ≤ attemptSleep p := by
  refine (sleepUnits_of_bigAttempt h).trans ?_
  split
  · exact Nat.le_refl _
  · exact Nat.le_add_left _ _

theorem sleepUnits_of_bigAttempts {p : Params} {frame ack : List Byte} {n : Nat} {ws rest : List Word} {ok : Bool}
    {made : Nat} {ev : List Event} (h : bigAttempts p frame ack n ws = some (ok, made, ev, rest)) :
    sleepUnits ev ≤ n * attemptSleep p := by
  induction n generalizing ws ok made ev with
  | zero => cases h; simp
  | succ n ih =>
    rw [Nat.succ_mul]
    unfold bigAttempts at h
    split at h
    · cases h
    · rename_i ev1 rest1 hone
      cases h
      exact (sleepUnits_le_of_bigAttempt hone).trans (Nat.le_add_left _ _)
    · rename_i o ev1 rest1 ho hone
      split at h
      · cases h
      rename_i ok' made' ev2 rest2 hrec
      cases h
      rw [sleepUnits_append, Nat.add_comm]
      exact Nat.add_le_add (ih hrec) (sleepUnits_le_of_bigAttempt hone)

/-- The most a command sleeps: its attempts and the delay after them (42_frame_protocol.md R128). -/
def commandSleep (p : Params) : Nat := p.retryLimit * attemptSleep p + p.postCmdDelay

theorem sleepUnits_of_bigSendCommand {p : Params} {c : Command} {pl : List Byte} {ws : List Word} {r : CommandRun}
    (h : bigSendCommand p c pl ws = some r) : sleepUnits r.events ≤ commandSleep p := by
  unfold bigSendCommand at h
  split at h
  · cases h
  all_goals
    rename_i n ev rest hbig
    cases h
    simpa [commandSleep] using sleepUnits_of_bigAttempts hbig

/-! ## The Shutdown Sequencer -/

theorem sleepUnits_of_bigSequence {p : Params} {ws rest : List Word} {r : PerCommand CmdResult} {n : Nat} {ev : List Event}
    (h : bigSequence p ws = some (r, n, ev, rest)) : sleepUnits ev ≤ 3 * commandSleep p := by
  unfold bigSequence at h
  split at h
  · cases h
  rename_i first hfirst
  split at h
  · cases h
  rename_i second hsecond
  split at h
  · cases h
  rename_i third hthird
  cases h
  have h1 := sleepUnits_of_bigSendCommand hfirst
  have h2 := sleepUnits_of_bigSendCommand hsecond
  have h3 := sleepUnits_of_bigSendCommand hthird
  rw [sleepUnits_append, sleepUnits_append]
  omega

theorem sleepUnits_configureEvents (p : Params) (d : Half) (f : Byte) : sleepUnits (configureEvents p d f) = 0 := by
  unfold configureEvents
  split <;> rfl

/-- A whole run sleeps in its three commands alone (43_shutdown_sequencer.md R150). -/
theorem sleepUnits_of_bigTrigger {p : Params} {tickRate : Word} {ws rest : List Word} {r : PerCommand CmdResult} {n : Nat}
    {ev : List Event} (h : bigTrigger p tickRate ws = some (r, n, ev, rest)) : sleepUnits ev ≤ 3 * commandSleep p := by
  unfold bigTrigger at h
  split at h
  · cases h
  rename_i r' n' ev' rest' hseq
  cases h
  simpa [sleepUnits_configureEvents] using sleepUnits_of_bigSequence hseq

theorem commandSleep_reference : commandSleep Params.reference = 1498 := rfl

/-- Settles O58: a poll limit bounds each byte, and the reads, the settle delay, the attempts and the commands add up. -/
theorem sleepingIsBounded : Obligations.SleepingIsBounded := by
  refine ⟨fun p m ws rest bs ev h => ⟨sleepUnits_le_of_bigReadBytes h, sleepUnits_le_of_short h⟩,
    fun p frame ack ws rest o ev h => sleepUnits_of_bigAttempt h,
    fun p c pl ws r h => sleepUnits_of_bigSendCommand h, fun tickRate ws rest r n ev h => ?_⟩
  have hunits := sleepUnits_of_bigTrigger h
  rw [commandSleep_reference] at hunits
  have hmillis : sleepMillis Params.reference ev = sleepUnits ev := Nat.one_mul _
  omega

end Sys2Proof.Machine
end

section
/-! PROOF. Attach (70_reset_and_hazards.md R200): the registers it leaves, and what nothing but it writes. -/

namespace Sys2Proof.Machine

/-! ## The attached engine -/

theorem attach_of_valid {a : AttachInput} (s : State) (h : paramsValid a.params a.base = true) :
    attach a s = .next (attachNow a s) := if_pos h

theorem attach_of_invalid {a : AttachInput} (s : State) (h : ¬ paramsValid a.params a.base = true) :
    attach a s = .refused .badParameters := if_neg h

/-- The status view of an attached engine, of which no field depends on the inputs, reads 0 (10_state.md R34). -/
theorem status_attached (p : Params) (base : Nat) (tickRate : Word) : status (Engine.attached p base tickRate) = 0 := by
  simp [status, Engine.attached, CmdResult.code, Command.index, MicroState.code]

/-- With no call and no program waiting, an attached engine stays as it is: it is idle, and the call an attach abandons is not
resumed (43_shutdown_sequencer.md R159). -/
theorem step_attachNow {a : AttachInput} {s : State} (hport : s.env.port = none) (hprogram : s.env.program = []) :
    step (attachNow a s) = .next (attachNow a s) :=
  stepServesRequestsBeforeTheProgram.2.2.2.2 (attachNow a s) ⟨rfl, hport⟩ nofun
    (engineRunning_of_inactive (s := attachNow a s) rfl) hprogram

/-! ## What only an attach writes -/

/-- The parameters and the inputs of the attach are the same. -/
def SameAttachment (s t : State) : Prop := t.par = s.par ∧ t.eng.base = s.eng.base ∧ t.eng.tickRate = s.eng.tickRate

theorem SameSurroundings.sameAttachment {s t : State} (h : SameSurroundings s t) : SameAttachment s t :=
  ⟨h.par, h.base, h.tickRate⟩

theorem triggerCall_sameAttachment (r : Reason) (arg : Word) (s : State) : SameAttachment s (triggerCall r arg s) := by
  rcases triggerCall_cases r arg s with ⟨-, h⟩ | ⟨-, -, h⟩ | ⟨-, -, -, h⟩ | ⟨-, -, h⟩ <;> rw [h] <;> exact ⟨rfl, rfl, rfl⟩

theorem exec_sameAttachment {i : Instr} {s t : State} (h : exec i s = .next t) : SameAttachment s t := by
  cases hc : isCall i with
  | true =>
    obtain ⟨r, arg, n, he⟩ := exec_call i s hc
    rw [he] at h
    cases h
    exact triggerCall_sameAttachment r arg { s with env := { s.env with hostCalls := n } }
  | false =>
    obtain ⟨run, he, hkeep⟩ := exec_invocation_surroundings i s hc
    rw [he] at h
    rcases invoke_cases (refusalOf i s) run s with
      ⟨-, hr⟩ | ⟨-, x, -, hr⟩ | ⟨-, -, -, hr⟩ | ⟨-, -, ⟨u, hu, hr⟩ | ⟨k, -, hr⟩⟩ <;> rw [hr] at h <;> cases h
    · exact ⟨rfl, rfl, rfl⟩
    · exact (hkeep _ _ hu).sameAttachment
    · exact ⟨rfl, rfl, rfl⟩

/-- No step but an attach writes a parameter, `base` or `tick_rate` (10_state.md R36; 70_reset_and_hazards.md R207). -/
theorem step_sameAttachment {s t : State} (ha : s.env.attachReq = none) (h : step s = .next t) : SameAttachment s t := by
  rcases step_cases s with ⟨a, hreq, -⟩ | ⟨c, -, -, hs⟩ | ⟨-, -, hs⟩ | ⟨hn, hc, hrun, -⟩ | ⟨-, -, -, hs⟩
  · rw [ha] at hreq; cases hreq
  · rw [hs] at h
    cases h
    exact triggerCall_sameAttachment _ _ { s with env := { s.env with port := none } }
  · rw [hs] at h
    cases h
    exact ⟨rfl, rfl, rfl⟩
  · obtain ⟨-, -, hrow | ⟨k, -, rfl⟩⟩ := engine_step_cases ⟨hn, hc, hrun⟩ h
    · exact (microRow_surroundings s t hrow).sameAttachment
    · exact ⟨rfl, rfl, rfl⟩
  · rcases hs with ⟨-, hs⟩ | ⟨e, -, hs⟩ | ⟨i, s1, hfetch, hs⟩ <;> rw [hs] at h
    · cases h
      exact ⟨rfl, rfl, rfl⟩
    · cases h
    · obtain ⟨item, left, rest, -, -, rfl⟩ := fetch_ok s s1 i hfetch
      exact exec_sameAttachment (s := { s with env := { s.env with program := putBack item left rest } }) h

/-- Settles O47: the check of the parameters is R7's, an attach leaves an idle engine with its reset values, and every other step
keeps the surroundings. -/
theorem attachResetsEveryRegister : Obligations.AttachResetsEveryRegister := by
  have hstep := stepServesRequestsBeforeTheProgram.1
  refine ⟨fun s a ha hbreaks => ?_, fun s a ha hkeeps => ?_, fun s t h ha => step_sameAttachment ha h⟩
  · rw [hstep s a ha]
    exact attach_of_invalid s fun hvalid => (paramsValid_iff _ _).mp hvalid hbreaks
  · have hnext : step s = .next (attachNow a s) := by
      rw [hstep s a ha]
      exact attach_of_valid s ((paramsValid_iff _ _).mpr hkeeps)
    refine ⟨attachNow a s, hnext, rfl, rfl, status_attached _ _ _, rfl, rfl, rfl, fun hport hprogram n u hrun => ?_⟩
    rw [run_of_quiet _ (step_attachNow hport hprogram) n] at hrun
    cases hrun
    exact ⟨rfl, rfl⟩

end Sys2Proof.Machine
end
